-- ==== Sys2Proof/Word.lean ====
section
/-!
DEFINITION. The sizes of the CRAY-2 Background Processor's data (00_scope.md R8, 10_state.md R20 to R24).
-/

namespace Sys2Proof

/-- A 64-bit word: an S register, an element of a V register, a memory word (R22, R24, R46). -/
abbrev Word := BitVec 64

/-- A 32-bit value: an A register, P, BA, LA, a memory address (R21, R25, R29, R30). -/
abbrev Addr := BitVec 32

/-- A 16-bit instruction parcel (30_encoding.md R100). -/
abbrev Parcel := BitVec 16

/-- A byte of memory: this model's unit of memory, an eighth of a word. -/
abbrev Byte := BitVec 8

/-- A register designator: one of the 3-bit fields i, j, k (R101). -/
abbrev Reg := BitVec 3

/-- The 6-bit field jk (R101). -/
abbrev Short := BitVec 6

end Sys2Proof
end

