-- ==== Sys2Proof/Config.lean ====
section
/-!
DEFINITION. What an implementation fixes (00_scope.md R8, 93_implementation_defined.md) and the free values: opaque
constants without a body, of which nothing can be proved, one for each point the sources leave open.
The first argument of a free value is the model's counter `freeIndex`, where the value may differ each time.
-/

namespace Sys2Proof.Config

/-! ## Parameters with the value HR-2000 gives (R8, D25) -/

/-- `CM_WORDS`: Common Memory has 2^28 words. -/
def cmWords : Nat := 268435456

/-- `LM_WORDS`: Local Memory has 16,384 words. -/
def lmWords : Nat := 16384

/-- `NBP`: Background Processors in the system; this model steps one of them (entry 1). -/
def processors : Nat := 4

/-- `CM_BANKS`: no rule of the model depends on it. -/
def banks : Nat := 128

/-- The instruction buffer's fields (10_state.md R52). -/
def bufferFields : Nat := 8

/-! ## Parameters with a default the spec chose and a recorded alternative -/

/-- `PARCEL_ORDER` (D1, R66): parcel 0 of a word is its high-order 16 bits. DEDUCED, unsafe (entry 8). -/
def parcelZeroHigh : Bool := true

/-- `LM_WRAP` (D5, R62): when true a Local Memory address is taken modulo 16,384; the default is a fault. Safe (entry 12). -/
def lmWrap : Bool := false

/-- `IOTA_VL` (D17, R402): when true only the first vlen() mask bits of a compressed iota are examined.
DEDUCED, unsafe (entry 28). -/
def iotaVL : Bool := false

/-! ## Floating-point results the sources do not determine (40_numerics.md R143, D15; entries 21 to 27) -/

/-- Word of a sum the properties of `FAdd` do not fix; its 49 open bits when the exponent is forced (R141, R144). -/
opaque addWord : Word → Word → Word
/-- Whether a sum whose own exponent reaches the overflow range is signalled (R144, FAdd-resovf). -/
opaque addErr : Word → Word → Bool
/-- Word of a difference the properties of `FSub` do not fix (R145). -/
opaque subWord : Word → Word → Word
/-- Whether a difference whose own exponent reaches the overflow range is signalled (R145). -/
opaque subErr : Word → Word → Bool
/-- Word of a product the properties of `FMul` do not fix (R146). -/
opaque mulWord : Word → Word → Word
/-- Word of a reciprocal approximation (R148). -/
opaque recipWord : Word → Word
/-- Word of a reciprocal iteration (R149). -/
opaque recipIterWord : Word → Word → Word
/-- Word of a reciprocal square root approximation (R150). -/
opaque rsqrtWord : Word → Word
/-- Word of a square root iteration (R151). -/
opaque sqrtIterWord : Word → Word → Word
/-- Result of fixing a magnitude of 2^47 or more and less than 2^48 (R153, FFix-edge). -/
opaque fixWord : Word → Word
/-- Whether fixing such a value is signalled (R153, FFix-edge). -/
opaque fixErr : Word → Bool
/-- Whether a fraction is fixed to the neighbouring integer of greater magnitude (R153, FFix-frac). -/
opaque fixAway : Word → Bool
/-- Result of floating an integer outside the 48-bit range, from its low 48 bits (R154, FFlt-big). -/
opaque floatWord : BitVec 48 → Word

/-! ## Other values the sources leave open -/

/-- `IOTA_HIGH` (R401): bits 63..32 of element `t` of an iota vector of stride `d` when `t * d` is 2^31 or more (entry 28). -/
opaque iotaHigh : Nat → Nat → Nat → BitVec 32

/-- Clock periods beyond one that a step takes, cut to what the clock holds (60_exceptions.md R436; entry 19). -/
opaque extraClocks : Nat → Nat

/-- P after an exit or a halt (R421, R427; entry 15). -/
opaque stoppedP : Nat → Addr

/-! ## What a halt leaves (60_exceptions.md R427; entry 14): nothing but the status bits is guaranteed, since later
instructions may have taken effect. `none` stands for 'as it was'. -/

/-- An A register after a halt. -/
opaque lateA : Nat → Fin 8 → Option Addr
/-- An S register after a halt. -/
opaque lateS : Nat → Fin 8 → Option Word
/-- An element of a V register after a halt. -/
opaque lateV : Nat → Fin 8 → Fin 64 → Option Word
/-- VL after a halt. -/
opaque lateVL : Nat → Option (BitVec 6)
/-- VM after a halt. -/
opaque lateVM : Nat → Option Word
/-- BA after a halt. -/
opaque lateBA : Nat → Option Addr
/-- LA after a halt. -/
opaque lateLA : Nat → Option Addr
/-- Clock periods that have gone by when a halt takes effect, beyond those of its step. -/
opaque lateClocks : Nat → Nat
/-- Words stored to Local Memory by the time of a halt, in order. -/
opaque lateLocal : Nat → List (BitVec 14 × Word)
/-- Words stored to Common Memory by the time of a halt, by absolute address, in order. -/
opaque lateCommon : Nat → List (BitVec 28 × Word)
/-- Blocks brought into the instruction buffer by the time of a halt, in order. -/
opaque lateBlocks : Nat → List (BitVec 26)
/-- A Semaphore flag after a halt. -/
opaque lateSem : Nat → Fin 8 → Option Bool
/-- The Semaphore bit of the status register after a halt. -/
opaque lateSemBit : Nat → Option Bool
/-- The halt enable for range errors after a halt. -/
opaque lateEnRangeHalt : Nat → Option Bool
/-- The halt enable for floating-point errors after a halt. -/
opaque lateEnFloatHalt : Nat → Option Bool
/-- Whether a later instruction raised a range error. -/
opaque lateRangeErr : Nat → Bool
/-- Whether a later instruction raised a floating-point error. -/
opaque lateFloatErr : Nat → Bool

end Sys2Proof.Config
end

