-- ==== Sys2Proof/Machine/State.lean ====
section
/-!
DEFINITION. The state of one Background Processor with the Common Memory and the Semaphore flags it shares
(10_state.md R20), as plain data, the reasons a step can stop, and the state after deadstart (R55, 70_reset_and_hazards.md R460).
-/

namespace Sys2Proof.Machine

/-- Idle mode or a computation period (10_state.md R44). -/
inductive RunState where
  | idle
  | running
  deriving DecidableEq, Repr

/-- The named fields of the Background Port Status register (10_state.md R41). Bit positions are not formed (entry 33). -/
structure Status where
  exitMode    : Bool
  idleMode    : Bool
  exitCode    : BitVec 6
  /-- Which Semaphore flag is assigned to this processor (R42). -/
  semPtr      : BitVec 3
  /-- Set when this processor changes the flag from 0 to 1, cleared by 007. -/
  semBit      : Bool
  enRangeHalt : Bool
  enFloatHalt : Bool
  /-- Sticky (R43). -/
  rangeErr    : Bool
  /-- Sticky (R43). -/
  floatErr    : Bool
  deriving DecidableEq, Repr

/-- A memory: cells of an address and a byte, addresses strictly rising. A word at address `a` is the bytes `8a` to
`8a + 7`, most significant first (entry 7); a byte that is not listed has never been written (entry 6). -/
abbrev Memory := List Host.Cell

/-- The state of the machine (10_state.md R20). -/
structure State where
  /-- A registers (R21). -/
  aReg : Vector Addr 8
  /-- S registers (R22). -/
  sReg : Vector Word 8
  /-- V registers (R24). -/
  vReg : Vector (Vector Word 64) 8
  /-- Vector Length register (R31). -/
  vl : BitVec 6
  /-- Vector Mask register (R33). -/
  vm : Word
  /-- Program Address register, a parcel address relative to BA (R25, R26). -/
  p : Addr
  /-- Base Address register (R29). -/
  ba : Addr
  /-- Limit Address register (R30). -/
  la : Addr
  /-- Real-time clock (R38). -/
  rtc : Word
  /-- Background Port Status register (R40, R41). -/
  st : Status
  /-- The eight Semaphore flags (R39). -/
  sem : Vector Bool 8
  /-- Idle or running (R44). -/
  run : RunState
  /-- Local Memory (R45). -/
  lm : Memory
  /-- Common Memory (R46). -/
  cm : Memory
  /-- The model's own: Common Memory words written since the start of the computation period, addresses strictly
  rising (20_memory.md R79; entry 17). -/
  written : List Nat
  /-- The 16-word blocks held in the instruction buffer, oldest first (R52; entry 18). -/
  ibuf : List (BitVec 26)
  /-- The model's own: picks the free values of a step, advanced by every step (entry 20). -/
  freeIndex : Nat
  deriving DecidableEq, Repr

/-- The events of a program that change the status register or stop it (60_exceptions.md R420). -/
inductive Event where
  /-- Instructions 000 and 001 (R421). -/
  | exit (code : BitVec 6)
  /-- A Common Memory operand reference outside the field (R422). -/
  | rangeError
  /-- An error case of a floating-point operation (R423). -/
  | floatError
  deriving DecidableEq, Repr

/-- What the Foreground Processor enters when it starts a computation period: the launch parameters of 10_state.md R55
(70_reset_and_hazards.md R461, R462). -/
structure Launch where
  p0     : Addr
  ba0    : Addr
  la0    : Addr
  semPtr : BitVec 3
  semBit : Bool
  deriving DecidableEq, Repr

/-- One write of the foreground system, the host (60_exceptions.md R431, R440): a piece of the processor's state, a word
of Local or Common Memory, or a Semaphore flag (entry 43). -/
inductive HostWrite where
  | p (x : Addr)
  | ba (x : Addr)
  | la (x : Addr)
  | a (r : Reg) (x : Addr)
  | s (r : Reg) (x : Word)
  | v (r : Reg) (e : BitVec 6) (x : Word)
  | vl (x : BitVec 6)
  | vm (x : Word)
  | localWord (addr : BitVec 14) (x : Word)
  /-- By absolute address. -/
  | commonWord (addr : BitVec 28) (x : Word)
  | sem (n : Fin 8) (x : Bool)
  | semPtr (x : BitVec 3)
  | semBit (x : Bool)
  | exitMode (x : Bool)
  /-- The flag alone: it does not start or stop the processor. -/
  | idleMode (x : Bool)
  | exitCode (x : BitVec 6)
  | enRangeHalt (x : Bool)
  | enFloatHalt (x : Bool)
  | rangeErr (x : Bool)
  | floatErr (x : Bool)
  deriving DecidableEq, Repr

/-- The model faults (60_exceptions.md R420): the sources do not say what the hardware does here. All are safe: the run
ends and nothing can be concluded from it. -/
inductive Fault where
  /-- `LMAddressFault` (20_memory.md R62): raised by a Local Memory reference above address 16383. Safe. -/
  | localAddress
  /-- Raised by a Common Memory reference inside the field but at or above `CM_WORDS` (R68), which no state that meets
  the launch premises can make. Safe. -/
  | commonAddress
  /-- `FetchRangeFault` (R72): raised by an instruction fetch outside the field. Safe. -/
  | fetchRange
  /-- `StaleInstruction` (R79): raised by an instruction fetch from a word written during the computation period. Safe. -/
  | staleInstruction
  /-- `UnspecifiedEncoding` (30_encoding.md R109): raised by 035, 106, 164 with a k the sources do not list. Safe. -/
  | unspecifiedEncoding
  /-- Raised by a read of a Local Memory word nothing has written (10_state.md R56). Safe. -/
  | unwrittenLocal
  /-- Raised by an operand read of a Common Memory word nothing has written (R56). Safe. -/
  | unwrittenCommon
  /-- Raised by an instruction fetch from a Common Memory word nothing has written (R56). Safe. -/
  | unwrittenFetch
  deriving DecidableEq, Repr

/-- Why a step has no meaning. All are safe: nothing can be concluded from a refused step. -/
inductive Refusal where
  /-- Raised by `exec` for an instruction without a meaning: no arm of this model raises it. Safe. -/
  | notModelled (mnemonic : String)
  /-- Raised by a step of a running processor, and by a launch, whose BA, LA or P violate the launch premises
  (70_reset_and_hazards.md R462). Safe. -/
  | launchPremise
  /-- Raised by a launch of a processor that is not idle (R461), and by a host write of its private state or a Semaphore
  flag then (60_exceptions.md R440). Safe. -/
  | notIdle
  /-- Raised by a host write, during a computation period, of a Common Memory word of the field that the program's
  contract does not name (R440). Safe. -/
  | hostContract
  /-- Raised by a step whose parcels end before the instruction does; a fetch never leaves that many out. Safe. -/
  | undecodable
  deriving DecidableEq, Repr

/-- What a meaning answers. -/
abbrev Result := Host.Outcome State Fault Refusal

/-- The status register after deadstart: idle, every other field 0. DESIGN CHOICE, unsafe: no source gives a value
(entry 5). -/
def Status.reset : Status where
  exitMode := false
  idleMode := true
  exitCode := 0
  semPtr := 0
  semBit := false
  enRangeHalt := false
  enFloatHalt := false
  rangeErr := false
  floatErr := false

/-- The machine after deadstart: idle (R460); the memories hold nothing; every register 0, DESIGN CHOICE, unsafe: no
source gives a value (entries 4, 5). The instruction buffer is empty, DESIGN CHOICE too: R55 leaves its content at
deadstart unspecified and empties it at the start of a computation period only (entry 18). -/
def State.reset : State where
  aReg := Vector.replicate 8 0
  sReg := Vector.replicate 8 0
  vReg := Vector.replicate 8 (Vector.replicate 64 0)
  vl := 0
  vm := 0
  p := 0
  ba := 0
  la := 0
  rtc := 0
  st := Status.reset
  sem := Vector.replicate 8 false
  run := .idle
  lm := []
  cm := []
  written := []
  ibuf := []
  freeIndex := 0

end Sys2Proof.Machine
end

