-- ==== Sys2Proof/Machine/Memory.lean ====
section
/-!
DEFINITION. Operations on a memory: bytes kept as cells with strictly rising addresses, words made of eight bytes.
-/

namespace Sys2Proof.Machine

/-- The byte at `x`, where one has been written. An address that is not listed has no value (10_state.md R56). -/
def Memory.byte? : Memory → Nat → Option Byte
  | [], _ => none
  | c :: m, x => bif Nat.beq c.1 x then some c.2 else Memory.byte? m x

/-- The cells of `m` below address `b`. -/
def Memory.below (b : Nat) : Memory → Memory
  | [] => []
  | c :: m => bif Nat.blt c.1 b then c :: Memory.below b m else Memory.below b m

/-- The cells of `m` at or above address `b`. -/
def Memory.atLeast (b : Nat) : Memory → Memory
  | [] => []
  | c :: m => bif Nat.ble b c.1 then c :: Memory.atLeast b m else Memory.atLeast b m

/-- `m` without its leading cells below address `b`. -/
def Memory.skip (b : Nat) : Memory → Memory
  | [] => []
  | c :: m => bif Nat.blt c.1 b then Memory.skip b m else c :: m

/-- The address of the first byte of word `a` (entry 7). -/
def wordBase (a : Nat) : Nat := 8 * a

/-- The eight cells of word `a` holding `w`, most significant byte first (entry 7). -/
def wordCells (a : Nat) (w : Word) : Memory :=
  [(wordBase a, w.extractLsb' 56 8), (wordBase a + 1, w.extractLsb' 48 8),
   (wordBase a + 2, w.extractLsb' 40 8), (wordBase a + 3, w.extractLsb' 32 8),
   (wordBase a + 4, w.extractLsb' 24 8), (wordBase a + 5, w.extractLsb' 16 8),
   (wordBase a + 6, w.extractLsb' 8 8), (wordBase a + 7, w.extractLsb' 0 8)]

/-- The word at word address `a`, where all of it has been written. -/
def Memory.word? (m : Memory) (a : Nat) : Option Word :=
  let b := wordBase a
  let t := Memory.skip b m
  match Memory.byte? t b, Memory.byte? t (b + 1), Memory.byte? t (b + 2), Memory.byte? t (b + 3),
    Memory.byte? t (b + 4), Memory.byte? t (b + 5), Memory.byte? t (b + 6), Memory.byte? t (b + 7) with
  | some b0, some b1, some b2, some b3, some b4, some b5, some b6, some b7 =>
    some (b0 ++ b1 ++ b2 ++ b3 ++ b4 ++ b5 ++ b6 ++ b7)
  | _, _, _, _, _, _, _, _ => none

/-- Writes the word `w` at word address `a`: all 64 bits are replaced, no other word changes (20_memory.md R62, R63). -/
def Memory.writeWord (m : Memory) (a : Nat) (w : Word) : Memory :=
  Memory.below (wordBase a) m ++ (wordCells a w ++ Memory.atLeast (wordBase a + 8) m)

/-- The canonical form: addresses strictly rising. -/
def Memory.wf : Memory → Bool
  | [] => true
  | [_] => true
  | c :: d :: m => decide (c.1 < d.1) && Memory.wf (d :: m)

/-- Every cell lies in a memory of `n` words. -/
def Memory.within (n : Nat) (m : Memory) : Bool := m.all fun c => decide (c.1 < wordBase n)

/-- Adds a word address to a strictly rising list of them. -/
def insertAddress (a : Nat) : List Nat → List Nat
  | [] => [a]
  | b :: l => if a < b then a :: b :: l else if a = b then b :: l else b :: insertAddress a l

/-- A list of word addresses is strictly rising. -/
def rising : List Nat → Bool
  | [] => true
  | [_] => true
  | a :: b :: l => decide (a < b) && rising (b :: l)

end Sys2Proof.Machine
end

