-- ==== Sys2Proof/Machine/Ops.lean ====
section
/-!
DEFINITION. The named operations over registers, Local Memory, Common Memory, the Semaphore flag and the clock; the
events of a program and what they do to the processor (00_scope.md R12, 20_memory.md R62 to R71, 60_exceptions.md R420
to R428).
-/

namespace Sys2Proof.Machine

/-! ## Registers -/

/-- `A[r]` (R21). -/
def State.getA (s : State) (r : Reg) : Addr := s.aReg[r.toNat]
/-- `A[r] <- v`. -/
def State.setA (s : State) (r : Reg) (v : Addr) : State := { s with aReg := s.aReg.set r.toNat v }
/-- `S[r]` (R22). -/
def State.getS (s : State) (r : Reg) : Word := s.sReg[r.toNat]
/-- `S[r] <- v`. -/
def State.setS (s : State) (r : Reg) (v : Word) : State := { s with sReg := s.sReg.set r.toNat v }
/-- `V[r][e]`, for an element number below 64 (R24). -/
def State.elem (s : State) (r : Reg) (e : Nat) : Word := (s.vReg[r.toNat]).toArray.getD e 0
/-- `V[r][e] <- f e` for the elements e below `n`; the others keep their contents (R34). -/
def State.setV (s : State) (r : Reg) (n : Nat) (f : Nat → Word) : State :=
  { s with vReg := s.vReg.set r.toNat (Vector.ofFn fun e : Fin 64 => if e.val < n then f e.val else s.elem r e.val) }

/-- `VL <- x` (R31). -/
def State.setVL (s : State) (x : BitVec 6) : State := { s with vl := x }
/-- `VM <- x` (R33). -/
def State.setVM (s : State) (x : Word) : State := { s with vm := x }
/-- `ST.EnRangeHalt <- b` (R41). -/
def State.setEnRangeHalt (s : State) (b : Bool) : State := { s with st := { s.st with enRangeHalt := b } }
/-- `ST.EnFloatHalt <- b` (R41). -/
def State.setEnFloatHalt (s : State) (b : Bool) : State := { s with st := { s.st with enFloatHalt := b } }
/-- `ST.RangeErr <- 1` (R43, 60_exceptions.md R422). -/
def State.setRangeErr (s : State) : State := { s with st := { s.st with rangeErr := true } }
/-- `ST.FloatErr <- 1` (R43, R423). -/
def State.setFloatErr (s : State) : State := { s with st := { s.st with floatErr := true } }

/-- `vlen()`: the vector length in effect (R32). -/
def State.vlen (s : State) : Nat := if s.vl = 0 then 64 else s.vl.toNat

/-! ## Program Address register (R27, R28): sums modulo 2^32 (entry 10) -/

/-- P moves past an instruction of `n` parcels. -/
def State.advance (s : State) (n : Nat) : State := { s with p := s.p + BitVec.ofNat 32 n }
/-- `pc <- target`. -/
def State.jumpTo (s : State) (target : Addr) : State := { s with p := target }

/-! ## Local Memory (20_memory.md R61, R62) -/

/-- The Local Memory word a reference at `a` reaches: model fault above 16383, or `a` modulo 16,384 under `LM_WRAP`
(entry 12). -/
def localIndex (a : Nat) : Except Fault Nat :=
  if a < Config.lmWords then .ok a
  else if Config.lmWrap then .ok (a % Config.lmWords)
  else .error .localAddress

/-- `MemRead(LM, a, 1)`. A word nothing has written has no value (10_state.md R56, entry 6). -/
def State.localRead (s : State) (a : Nat) : Except Fault Word :=
  match localIndex a with
  | .error f => .error f
  | .ok x =>
    match Memory.word? s.lm x with
    | some w => .ok w
    | none => .error .unwrittenLocal

/-- A word of Local Memory is stored. -/
def State.storeLocal (s : State) (a : Nat) (v : Word) : State := { s with lm := Memory.writeWord s.lm a v }

/-- `MemWrite(LM, a, 1, v)`. -/
def State.localWrite (s : State) (a : Nat) (v : Word) : Except Fault State :=
  match localIndex a with
  | .error f => .error f
  | .ok x => .ok (s.storeLocal x v)

/-! ## Common Memory (R65 to R71) -/

/-- The quadrant of an absolute address (R68); timing only. -/
def quadrantOf (abs : Addr) : BitVec 2 := abs.extractLsb' 0 2
/-- The bank within its quadrant (R68); timing only. -/
def bankOf (abs : Addr) : BitVec 5 := abs.extractLsb' 2 5

/-- The absolute address of a reference: BA is added, modulo 2^32 (R69, entry 10). -/
def State.absolute (s : State) (rel : Addr) : Addr := s.ba + rel

/-- The field test (R69): `BA <= abs < LA`, unsigned. -/
def State.inField (s : State) (abs : Addr) : Bool := decide (s.ba ≤ abs) && decide (abs < s.la)

/-- A reference at relative address `rel` is a memory range error (R69). -/
def State.rangeBad (s : State) (rel : Addr) : Bool := !s.inField (s.absolute rel)

/-- `CMLoad(rel)` without its signal: the word, or zero data for a reference outside the field (R70). -/
def State.commonRead (s : State) (rel : Addr) : Except Fault Word :=
  if s.rangeBad rel then .ok 0
  else if (s.absolute rel).toNat < Config.cmWords then
    match Memory.word? s.cm (s.absolute rel).toNat with
    | some w => .ok w
    | none => .error .unwrittenCommon
  else .error .commonAddress

/-- A word of Common Memory is stored and noted as written in this computation period (R71, R79). -/
def State.storeCommon (s : State) (abs : Nat) (v : Word) : State :=
  { s with cm := Memory.writeWord s.cm abs v, written := insertAddress abs s.written }

/-- `CMStore(rel, v)` without its signal: a reference outside the field is aborted (R71). -/
def State.commonWrite (s : State) (rel : Addr) (v : Word) : Except Fault State :=
  if s.rangeBad rel then .ok s
  else if (s.absolute rel).toNat < Config.cmWords then .ok (s.storeCommon (s.absolute rel).toNat v)
  else .error .commonAddress

/-! ## Streams: one reference per element, element 0 first (R64, R81) -/

/-- The values of `f 0` to `f (n - 1)`, or the fault of the first of them that faults. -/
def collect (f : Nat → Except Fault Word) : Nat → Except Fault (List Word)
  | 0 => .ok []
  | n + 1 =>
    match collect f n with
    | .error x => .error x
    | .ok l =>
      match f n with
      | .error x => .error x
      | .ok w => .ok (l ++ [w])

/-- The state after `f 0` to `f (n - 1)` in that order, or the fault of the first of them that faults. -/
def sequence (f : Nat → State → Except Fault State) : Nat → State → Except Fault State
  | 0, s => .ok s
  | n + 1, s =>
    match sequence f n s with
    | .error x => .error x
    | .ok t => f n t

/-- Some element below `n` satisfies `f`. -/
def anyBelow (f : Nat → Bool) : Nat → Bool
  | 0 => false
  | n + 1 => anyBelow f n || f n

/-! ## The Semaphore flag assigned to this processor (R39, R42) -/

/-- `SEM[ST.SemPtr]`. -/
def State.semFlag (s : State) : Bool := s.sem[s.st.semPtr.toNat]
/-- `SEM[ST.SemPtr] <- b`. -/
def State.setSemFlag (s : State) (b : Bool) : State := { s with sem := s.sem.set s.st.semPtr.toNat b }
/-- Sets the flag, and the Semaphore bit of the status register if that changes the flag from 0 to 1 (R176 to R178). -/
def State.takeSem (s : State) : State :=
  { s.setSemFlag true with st := { s.st with semBit := s.st.semBit || !s.semFlag } }
/-- Clears the flag and the Semaphore bit (R179). -/
def State.releaseSem (s : State) : State :=
  { s.setSemFlag false with st := { s.st with semBit := false } }

/-! ## The real-time clock (R38, R436) -/

/-- The clock after at least one clock period: one and a free number more, cut so that it does not pass 2^64 - 1 (R436
L5); only from that last value does it wrap (L1). Entry 19. -/
def State.clockNext (s : State) : Word :=
  s.rtc + 1 + BitVec.ofNat 64 (Config.extraClocks s.freeIndex % (2 ^ 64 - 1 - s.rtc.toNat))

/-- What every step does besides its instruction: the clock counts (entry 19), and the free values of the next step
become others (entry 20). -/
def State.tick (s : State) : State := { s with rtc := s.clockNext, freeIndex := s.freeIndex + 1 }

/-! ## The instruction buffer (10_state.md R52; entry 18) -/

/-- A block that is not in the buffer replaces the oldest one (R52). -/
def fillBlock (b : BitVec 26) (l : List (BitVec 26)) : List (BitVec 26) :=
  if l.contains b then l else l.drop (l.length + 1 - Config.bufferFields) ++ [b]

/-! ## Events: what stands here for exception entry (60_exceptions.md R420 to R428) -/

/-- The registers, the Semaphore flags, the instruction buffer and the status bits after a halt: free, but for the fields
of the status register that no instruction other than an exit writes, and for error bits that were set; the clock has
counted on (R427, R436, entries 14, 15). -/
def State.lateRegisters (s : State) : State :=
  { s with
    aReg := Vector.ofFn fun r : Fin 8 => (Config.lateA s.freeIndex r).getD s.aReg[r.val]
    sReg := Vector.ofFn fun r : Fin 8 => (Config.lateS s.freeIndex r).getD s.sReg[r.val]
    vReg := Vector.ofFn fun r : Fin 8 =>
      Vector.ofFn fun e : Fin 64 => (Config.lateV s.freeIndex r e).getD s.vReg[r.val][e.val]
    vl := (Config.lateVL s.freeIndex).getD s.vl
    vm := (Config.lateVM s.freeIndex).getD s.vm
    p := Config.stoppedP s.freeIndex
    ba := (Config.lateBA s.freeIndex).getD s.ba
    la := (Config.lateLA s.freeIndex).getD s.la
    rtc := s.rtc + BitVec.ofNat 64 (Config.lateClocks s.freeIndex % (2 ^ 64 - s.rtc.toNat))
    sem := Vector.ofFn fun n : Fin 8 => (Config.lateSem s.freeIndex n).getD s.sem[n.val]
    ibuf := (Config.lateBlocks s.freeIndex).foldl (fun l b => fillBlock b l) s.ibuf
    st := { s.st with
      semBit := (Config.lateSemBit s.freeIndex).getD s.st.semBit
      enRangeHalt := (Config.lateEnRangeHalt s.freeIndex).getD s.st.enRangeHalt
      enFloatHalt := (Config.lateEnFloatHalt s.freeIndex).getD s.st.enFloatHalt
      rangeErr := s.st.rangeErr || Config.lateRangeErr s.freeIndex
      floatErr := s.st.floatErr || Config.lateFloatErr s.freeIndex } }

/-- The memories after a halt: any words of them may have been stored to (R427, entry 14). -/
def State.lateMemory (s : State) : State :=
  (Config.lateCommon s.freeIndex).foldl (fun t x => t.storeCommon x.1.toNat x.2)
    ((Config.lateLocal s.freeIndex).foldl (fun t x => t.storeLocal x.1.toNat x.2) s)

/-- `Halt` (R425, R427): idle mode, with everything but the status bits left free; `ST.ExitMode` and `ST.ExitCode` are
not changed. -/
def State.halt (s : State) : State :=
  { s.lateRegisters with
    lm := s.lateMemory.lm
    cm := s.lateMemory.cm
    written := s.lateMemory.written
    st := { s.lateRegisters.st with idleMode := true }
    run := .idle }

/-- `raise`: what an event does to the processor (R421, R422, R423). -/
def State.raise (s : State) : Event → State
  | .exit code =>
    { s with
      st := { s.st with exitCode := code, exitMode := true, idleMode := true }
      run := .idle
      p := Config.stoppedP s.freeIndex }
  | .rangeError =>
    if s.st.enRangeHalt then s.setRangeErr.halt else s.setRangeErr
  | .floatError =>
    if s.st.enFloatHalt then s.setFloatErr.halt else s

/-- `raise` if the instruction met the event's cause. -/
def State.signal (s : State) (e : Event) (met : Bool) : State := if met then s.raise e else s

/-! ## The field premise -/

/-- Premise LP1 (70_reset_and_hazards.md R462). -/
def State.fieldOk (s : State) : Bool := decide (s.ba ≤ s.la) && decide (s.la.toNat ≤ Config.cmWords)

end Sys2Proof.Machine
end

