-- ==== Sys2Proof/Machine/Operands.lean ====
section
/-!
DEFINITION. Operand forms: how the constants of an instruction fill a register (40_numerics.md R134), how an
instruction forms a memory address (44_common_memory.md R260, 20_memory.md R61), and what a vector instruction reads
from a V register (10_state.md R37).
-/

namespace Sys2Proof.Machine

/-! ## Constants and transfers between 32 and 64 bits (R134) -/

/-- The 6-bit field with zeros above it, in an A register (026). -/
def shortPosA (jk : Short) : Addr := jk.setWidth 32
/-- The 6-bit field with ones above it, in an A register (027): jk - 64. -/
def shortNegA (jk : Short) : Addr := BitVec.allOnes 26 ++ jk
/-- The 6-bit field with zeros above it, in an S register (116). -/
def shortPosS (jk : Short) : Word := jk.setWidth 64
/-- The 6-bit field with ones above it, in an S register (117): jk - 64. -/
def shortNegS (jk : Short) : Word := BitVec.allOnes 58 ++ jk
/-- A 16-bit constant with zeros above it (040). -/
def parcelPosA (c : Parcel) : Addr := c.setWidth 32
/-- A 16-bit constant with ones above it (041): c - 65536. -/
def parcelNegA (c : Parcel) : Addr := BitVec.allOnes 16 ++ c
/-- A 32-bit value with zeros above it (050, 130). -/
def zeroExtend (c : Addr) : Word := c.setWidth 64
/-- A 32-bit constant with ones above it (051). -/
def onesExtend (c : Addr) : Word := BitVec.allOnes 32 ++ c
/-- A 32-bit constant in the high-order half, the low-order half zero (052). -/
def leftHalf (c : Addr) : Word := c ++ (0 : BitVec 32)
/-- A 32-bit value with copies of its sign bit above it (045, 047, 131). -/
def signExtend (c : Addr) : Word := c.signExtend 64
/-- The low-order 32 bits of a word (024, 044, 046, 072, 073). -/
def lowHalf (w : Word) : Addr := w.setWidth 32

/-! ## Local Memory addresses (R61, R64): unsigned, not relative to BA -/

/-- The address in the constant parcel (044, 045, 054, 055). -/
def localDirect (c : Parcel) : Nat := c.toNat
/-- The address in A_k (046, 047, 056, 057). -/
def State.localAt (s : State) (k : Reg) : Nat := (s.getA k).toNat
/-- The address of element `e` of a Local Memory stream (074, 075). -/
def State.localStream (s : State) (k : Reg) (e : Nat) : Nat := (s.getA k).toNat + e

/-! ## Relative Common Memory addresses (R260): sums modulo 2^32 (entry 10) -/

/-- (A_j) + (A_k) (060, 061). -/
def State.relIndexed (s : State) (j k : Reg) : Addr := s.getA j + s.getA k
/-- (A_k) + K32 (064, 065). -/
def State.relDisp (s : State) (k : Reg) (c : Addr) : Addr := s.getA k + c
/-- (A_j) + e * (A_k): element `e` of a strided reference (070, 071). -/
def State.relStride (s : State) (j k : Reg) (e : Nat) : Addr := s.getA j + BitVec.ofNat 32 e * s.getA k
/-- (A_k) + the low 32 bits of an index (072, 073). -/
def State.relIndex (s : State) (k : Reg) (index : Word) : Addr := s.getA k + lowHalf index

/-! ## Vector sources -/

/-- `Vs(x)[e]` of an instruction that writes V_i: the source reads as zeros when it is the destination (R37). -/
def State.vsrc (s : State) (i x : Reg) (e : Nat) : Word := if x = i then 0 else s.elem x e

/-- The mask bit of element `e` is bit 63-e (R33). -/
def maskBit (m : Word) (e : Nat) : Bool := m.getLsbD (63 - e)

end Sys2Proof.Machine
end

