-- ==== Sys2Proof/Machine/Flags.lean ====
section
/-!
DEFINITION. The tests of branches and masks (40_numerics.md R135, 41_branch_exit_semaphore.md R173), the vector mask a
test forms (42_address_vm_vl.md R209), and the bit counts (00_scope.md R12). The machine has no condition codes
(10_state.md R48).
-/

namespace Sys2Proof.Machine

/-- `IsZero`. -/
def isZero {w : Nat} (x : BitVec w) : Bool := decide (x = 0)
/-- `IsNonzero`. -/
def isNonzero {w : Nat} (x : BitVec w) : Bool := !isZero x
/-- `IsNegative`: the sign bit is 1. -/
def isNegative {w : Nat} (x : BitVec w) : Bool := x.msb
/-- `IsPositive`: the sign bit is 0, so zero is positive. DEDUCED, unsafe (D3, entry 11). -/
def isPositive {w : Nat} (x : BitVec w) : Bool := !x.msb

/-- The mask whose bit of element `e` is set where `e < n` and the element passes the test; the rest is clear (R209). -/
def maskOf (test : Nat → Bool) : Nat → Word
  | 0 => 0
  | n + 1 => if test n then maskOf test n ||| ((1 : Word) <<< (63 - n)) else maskOf test n

/-- How many of the low `n` bits of `w` are 1. -/
def onesBelow (w : Word) : Nat → Nat
  | 0 => 0
  | n + 1 => onesBelow w n + (w.getLsbD n).toNat

/-- `popcount(v)` (R12). -/
def popcount (w : Word) : Nat := onesBelow w 64

/-- `lzcount(v)`: 0 bits above the highest 1 bit, 64 for zero (R12). -/
def lzcount (w : Word) : Nat := if w = 0 then 64 else 63 - Nat.log2 w.toNat

end Sys2Proof.Machine
end

