-- ==== Sys2Proof/Machine/Address.lean ====
section
/-!
DEFINITION. Instructions 020 to 037: address arithmetic, entries into A registers, the vector mask, the halt enables
and the vector length (42_address_vm_vl.md R200 to R222).
-/

namespace Sys2Proof.Machine

/-- `A[i] <- v`, and P moves past `n` parcels. -/
def State.deliverA (s : State) (i : Reg) (v : Addr) (n : Nat) : Result := .next ((s.setA i v).advance n)

/-- VM from the elements of V_k that pass the test (R209). -/
def State.deliverMask (s : State) (k : Reg) (test : Word → Bool) : Result :=
  .next ((s.setVM (maskOf (fun e => test (s.elem k e)) s.vlen)).advance 1)

/-- 020 (R201). -/
def execAddA (i j k : Reg) (s : State) : Result := s.deliverA i (s.getA j + s.getA k) 1
/-- 021 (R202). -/
def execSubA (i j k : Reg) (s : State) : Result := s.deliverA i (s.getA j - s.getA k) 1
/-- 022 (R203): the low-order 32 bits of the product. -/
def execMulA (i j k : Reg) (s : State) : Result := s.deliverA i (s.getA j * s.getA k) 1
/-- 023 executes as 022 (R204). -/
def execMulAAlt (i j k : Reg) (s : State) : Result := s.deliverA i (s.getA j * s.getA k) 1
/-- 024 (R205). -/
def execMoveSToA (i j : Reg) (s : State) : Result := s.deliverA i (lowHalf (s.getS j)) 1
/-- 025 (R206): the register's 6 bits, not the effective length. -/
def execReadVL (i : Reg) (s : State) : Result := s.deliverA i (s.vl.setWidth 32) 1
/-- 026 (R207). -/
def execShortPosA (i : Reg) (jk : Short) (s : State) : Result := s.deliverA i (shortPosA jk) 1
/-- 027 (R208). -/
def execShortNegA (i : Reg) (jk : Short) (s : State) : Result := s.deliverA i (shortNegA jk) 1
/-- 030 (R210). -/
def execMaskZero (k : Reg) (s : State) : Result := s.deliverMask k isZero
/-- 031 (R211). -/
def execMaskNonzero (k : Reg) (s : State) : Result := s.deliverMask k isNonzero
/-- 032 (R212). -/
def execMaskPositive (k : Reg) (s : State) : Result := s.deliverMask k isPositive
/-- 033 (R213). -/
def execMaskNegative (k : Reg) (s : State) : Result := s.deliverMask k isNegative
/-- 034 (R214). -/
def execWriteVM (j : Reg) (s : State) : Result := .next ((s.setVM (s.getS j)).advance 1)
/-- 035xx0 (R216). -/
def execDisableRangeHalt (s : State) : Result := .next ((s.setEnRangeHalt false).advance 1)
/-- 035xx1 (R217). -/
def execEnableRangeHalt (s : State) : Result := .next ((s.setEnRangeHalt true).advance 1)
/-- 035xx2 (R218). -/
def execDisableFloatHalt (s : State) : Result := .next ((s.setEnFloatHalt false).advance 1)
/-- 035xx3 (R219). -/
def execEnableFloatHalt (s : State) : Result := .next ((s.setEnFloatHalt true).advance 1)
/-- 035xx4 to 035xx7: no source lists them (R220). -/
def execUnspecified035 (_k : Reg) (_s : State) : Result := .fault .unspecifiedEncoding
/-- 036 (R221): the low-order 6 bits of (A_k). -/
def execWriteVL (k : Reg) (s : State) : Result := .next ((s.setVL ((s.getA k).setWidth 6)).advance 1)
/-- 037 executes as 036 (R222). -/
def execWriteVLAlt (k : Reg) (s : State) : Result := .next ((s.setVL ((s.getA k).setWidth 6)).advance 1)

end Sys2Proof.Machine
end

