-- ==== Sys2Proof/Machine/Branch.lean ====
section
/-!
DEFINITION. Instructions 000 to 017: exits, jumps, Semaphore instructions and conditional branches
(41_branch_exit_semaphore.md R170 to R187).
-/

namespace Sys2Proof.Machine

/-- `pc <- target` if the criterion is met; else the instruction at P + 3 is next (R173). -/
def State.branch (s : State) (taken : Bool) (target : Addr) : State := if taken then s.jumpTo target else s.advance 3

/-- 000 (R171). -/
def execExit (jk : Short) (s : State) : Result := .next (s.raise (.exit jk))
/-- 001 executes as 000 (R172). -/
def execExitAlt (jk : Short) (s : State) : Result := .next (s.raise (.exit jk))
/-- 002 (R174): the target is read before the return address P + 1 is written. -/
def execJumpReg (i k : Reg) (s : State) : Result := .next ((s.setA i (s.p + 1)).jumpTo (s.getA k))
/-- 003 (R175). -/
def execJump (c : Addr) (s : State) : Result := .next (s.jumpTo c)
/-- 004 (R176): jump where the flag was clear; the flag is set. -/
def execJumpSemClear (c : Addr) (s : State) : Result := .next (s.takeSem.branch (!s.semFlag) c)
/-- 005 (R177): jump where the flag was set; the flag is set. -/
def execJumpSemSet (c : Addr) (s : State) : Result := .next (s.takeSem.branch s.semFlag c)
/-- 006 (R178). -/
def execSetSem (s : State) : Result := .next (s.takeSem.advance 1)
/-- 007 (R179): every earlier Common Memory reference is performed already, so the fence completes at once (entry 3). -/
def execClearSem (s : State) : Result := .next (s.releaseSem.advance 1)
/-- 010 (R180). -/
def execJumpAZero (k : Reg) (c : Addr) (s : State) : Result := .next (s.branch (isZero (s.getA k)) c)
/-- 011 (R181). -/
def execJumpANonzero (k : Reg) (c : Addr) (s : State) : Result := .next (s.branch (isNonzero (s.getA k)) c)
/-- 012 (R182). -/
def execJumpAPositive (k : Reg) (c : Addr) (s : State) : Result := .next (s.branch (isPositive (s.getA k)) c)
/-- 013 (R183). -/
def execJumpANegative (k : Reg) (c : Addr) (s : State) : Result := .next (s.branch (isNegative (s.getA k)) c)
/-- 014 (R184). -/
def execJumpSZero (j : Reg) (c : Addr) (s : State) : Result := .next (s.branch (isZero (s.getS j)) c)
/-- 015 (R185). -/
def execJumpSNonzero (j : Reg) (c : Addr) (s : State) : Result := .next (s.branch (isNonzero (s.getS j)) c)
/-- 016 (R186). -/
def execJumpSPositive (j : Reg) (c : Addr) (s : State) : Result := .next (s.branch (isPositive (s.getS j)) c)
/-- 017 (R187). -/
def execJumpSNegative (j : Reg) (c : Addr) (s : State) : Result := .next (s.branch (isNegative (s.getS j)) c)

end Sys2Proof.Machine
end

