-- ==== Sys2Proof/Machine/Common.lean ====
section
/-!
DEFINITION. Instructions 060 to 077: Common Memory references, vector transfers with Local Memory, pass
(44_common_memory.md R260 to R276).
-/

namespace Sys2Proof.Machine

/-- `S[i] <- CMLoad(rel)` by an instruction of `n` parcels; the signal comes last (R261, 20_memory.md R70). -/
def State.loadS (s : State) (i : Reg) (rel : Addr) (n : Nat) : Result :=
  match s.commonRead rel with
  | .error f => .fault f
  | .ok w => .next (((s.setS i w).advance n).signal .rangeError (s.rangeBad rel))

/-- `CMStore(rel, S[i])` by an instruction of `n` parcels (R262, R71). -/
def State.storeS (s : State) (i : Reg) (rel : Addr) (n : Nat) : Result :=
  match s.commonWrite rel (s.getS i) with
  | .error f => .fault f
  | .ok t => .next ((t.advance n).signal .rangeError (s.rangeBad rel))

/-- `V[i][e] <- CMLoad(rel e)` for the elements of the vector; one signal after the last of them (R269, R82, R427). -/
def State.loadV (s : State) (i : Reg) (rel : Nat → Addr) : Result :=
  match collect (fun e => s.commonRead (rel e)) s.vlen with
  | .error f => .fault f
  | .ok l =>
    .next (((s.setV i s.vlen fun e => l.getD e 0).advance 1).signal .rangeError
      (anyBelow (fun e => s.rangeBad (rel e)) s.vlen))

/-- `CMStore(rel e, V[i][e])` for the elements of the vector, element 0 first; one signal after the last of them
(R270, R81, R82, R427). -/
def State.storeV (s : State) (i : Reg) (rel : Nat → Addr) : Result :=
  match sequence (fun e t => t.commonWrite (rel e) (s.elem i e)) s.vlen s with
  | .error f => .fault f
  | .ok t => .next ((t.advance 1).signal .rangeError (anyBelow (fun e => s.rangeBad (rel e)) s.vlen))

/-- 060 (R261). -/
def execLoadSIndexed (i j k : Reg) (s : State) : Result := s.loadS i (s.relIndexed j k) 1
/-- 061 (R262). -/
def execStoreSIndexed (i j k : Reg) (s : State) : Result := s.storeS i (s.relIndexed j k) 1
/-- 062 (R263). -/
def execLoadSReg (i k : Reg) (s : State) : Result := s.loadS i (s.getA k) 1
/-- 063 (R264). -/
def execStoreSReg (i k : Reg) (s : State) : Result := s.storeS i (s.getA k) 1
/-- 064 (R265). -/
def execLoadSDisp (i k : Reg) (c : Addr) (s : State) : Result := s.loadS i (s.relDisp k c) 3
/-- 065 (R266). -/
def execStoreSDisp (i k : Reg) (c : Addr) (s : State) : Result := s.storeS i (s.relDisp k c) 3
/-- 066 (R267). -/
def execLoadSDirect (i : Reg) (c : Addr) (s : State) : Result := s.loadS i c 3
/-- 067 (R268). -/
def execStoreSDirect (i : Reg) (c : Addr) (s : State) : Result := s.storeS i c 3
/-- 070 (R269). -/
def execLoadVStride (i j k : Reg) (s : State) : Result := s.loadV i (s.relStride j k)
/-- 071 (R270). -/
def execStoreVStride (i j k : Reg) (s : State) : Result := s.storeV i (s.relStride j k)
/-- 072 (R271): the index stream reads as zeros where j = i (10_state.md R37). -/
def execGatherV (i j k : Reg) (s : State) : Result := s.loadV i fun e => s.relIndex k (s.vsrc i j e)
/-- 073 (R272): no V register is written, so i = j reads the register. -/
def execScatterV (i j k : Reg) (s : State) : Result := s.storeV i fun e => s.relIndex k (s.elem j e)
/-- 074 (R273). -/
def execLoadVLocal (i k : Reg) (s : State) : Result :=
  match collect (fun e => s.localRead (s.localStream k e)) s.vlen with
  | .error f => .fault f
  | .ok l => .next ((s.setV i s.vlen fun e => l.getD e 0).advance 1)
/-- 075 (R274). -/
def execStoreVLocal (i k : Reg) (s : State) : Result :=
  match sequence (fun e t => t.localWrite (s.localStream k e) (s.elem i e)) s.vlen s with
  | .error f => .fault f
  | .ok t => .next (t.advance 1)
/-- 076 (R275). -/
def execPass (s : State) : Result := .next (s.advance 1)
/-- 077 executes as 076 (R276). -/
def execPassAlt (s : State) : Result := .next (s.advance 1)

end Sys2Proof.Machine
end

