-- ==== Sys2Proof/Machine/Entry.lean ====
section
/-!
DEFINITION. Instructions 040 to 057: constants into A and S registers, and transfers between them and Local Memory
(43_entry_local_memory.md R230 to R246).
-/

namespace Sys2Proof.Machine

/-- `A[i] <- v` by an instruction of `n` parcels. -/
def State.enterA (s : State) (i : Reg) (v : Addr) (n : Nat) : Result := .next ((s.setA i v).advance n)
/-- `S[i] <- v` by an instruction of `n` parcels. -/
def State.enterS (s : State) (i : Reg) (v : Word) (n : Nat) : Result := .next ((s.setS i v).advance n)

/-- The low-order half of the Local Memory word at `a` to A_i (20_memory.md R63). -/
def State.localToA (s : State) (i : Reg) (a n : Nat) : Result :=
  match s.localRead a with
  | .error f => .fault f
  | .ok w => s.enterA i (lowHalf w) n
/-- The Local Memory word at `a` to S_i. -/
def State.localToS (s : State) (i : Reg) (a n : Nat) : Result :=
  match s.localRead a with
  | .error f => .fault f
  | .ok w => s.enterS i w n
/-- `w` to Local Memory at `a`. -/
def State.toLocal (s : State) (a : Nat) (w : Word) (n : Nat) : Result :=
  match s.localWrite a w with
  | .error f => .fault f
  | .ok t => .next (t.advance n)

/-- 040 (R231). -/
def execParcelPosA (i : Reg) (c : Parcel) (s : State) : Result := s.enterA i (parcelPosA c) 2
/-- 041 (R232). -/
def execParcelNegA (i : Reg) (c : Parcel) (s : State) : Result := s.enterA i (parcelNegA c) 2
/-- 042 (R233). -/
def execHalfA (i : Reg) (c : Addr) (s : State) : Result := s.enterA i c 3
/-- 043 executes as 042 (R234). -/
def execHalfAAlt (i : Reg) (c : Addr) (s : State) : Result := s.enterA i c 3
/-- 044 (R235). -/
def execLoadALocal (i : Reg) (c : Parcel) (s : State) : Result := s.localToA i (localDirect c) 2
/-- 045 (R236). -/
def execStoreALocal (k : Reg) (c : Parcel) (s : State) : Result := s.toLocal (localDirect c) (signExtend (s.getA k)) 2
/-- 046 (R237). -/
def execLoadALocalReg (i k : Reg) (s : State) : Result := s.localToA i (s.localAt k) 1
/-- 047 (R238). -/
def execStoreALocalReg (j k : Reg) (s : State) : Result := s.toLocal (s.localAt k) (signExtend (s.getA j)) 1
/-- 050 (R239). -/
def execHalfPosS (i : Reg) (c : Addr) (s : State) : Result := s.enterS i (zeroExtend c) 3
/-- 051 (R240). -/
def execHalfNegS (i : Reg) (c : Addr) (s : State) : Result := s.enterS i (onesExtend c) 3
/-- 052 (R241). -/
def execLeftS (i : Reg) (c : Addr) (s : State) : Result := s.enterS i (leftHalf c) 3
/-- 053 (R242). -/
def execFullS (i : Reg) (c : Word) (s : State) : Result := s.enterS i c 5
/-- 054 (R243). -/
def execLoadSLocal (i : Reg) (c : Parcel) (s : State) : Result := s.localToS i (localDirect c) 2
/-- 055 (R244). -/
def execStoreSLocal (j : Reg) (c : Parcel) (s : State) : Result := s.toLocal (localDirect c) (s.getS j) 2
/-- 056 (R245). -/
def execLoadSLocalReg (i k : Reg) (s : State) : Result := s.localToS i (s.localAt k) 1
/-- 057 (R246): the i field names a source. -/
def execStoreSLocalReg (i k : Reg) (s : State) : Result := s.toLocal (s.localAt k) (s.getS i) 1

end Sys2Proof.Machine
end

