-- ==== Sys2Proof/Machine/Scalar.lean ====
section
/-!
DEFINITION. Instructions 100 to 117: scalar logical, integer, count and shift operations, reads of VM and of the clock,
short constants (45_scalar_logical_integer_shift.md R290 to R308).
-/

namespace Sys2Proof.Machine

/-- `S[i] <- v` by an instruction of one parcel. -/
def State.deliverS (s : State) (i : Reg) (v : Word) : Result := .next ((s.setS i v).advance 1)

/-- The upper window of `hi : lo` shifted left `n` places (R303, R361). -/
def doubleLeft (hi lo : Word) (n : Nat) : Word :=
  if 128 ≤ n then 0 else ((hi ++ lo) <<< n).extractLsb' 64 64

/-- The lower window of `hi : lo` shifted right `n` places (R304, R362). -/
def doubleRight (hi lo : Word) (n : Nat) : Word :=
  if 128 ≤ n then 0 else ((hi ++ lo) >>> n).extractLsb' 0 64

/-- 100 (R291). -/
def execAndS (i j k : Reg) (s : State) : Result := s.deliverS i (s.getS j &&& s.getS k)
/-- 101 (R292): (S_k) is complemented. -/
def execAndNotS (i j k : Reg) (s : State) : Result := s.deliverS i (s.getS j &&& ~~~(s.getS k))
/-- 102 (R293). -/
def execXorS (i j k : Reg) (s : State) : Result := s.deliverS i (s.getS j ^^^ s.getS k)
/-- 103 (R294). -/
def execOrS (i j k : Reg) (s : State) : Result := s.deliverS i (s.getS j ||| s.getS k)
/-- 104 (R295). -/
def execAddS (i j k : Reg) (s : State) : Result := s.deliverS i (s.getS j + s.getS k)
/-- 105 (R296). -/
def execSubS (i j k : Reg) (s : State) : Result := s.deliverS i (s.getS j - s.getS k)
/-- 106ij0 (R297). -/
def execPopcountS (i j : Reg) (s : State) : Result := s.deliverS i (BitVec.ofNat 64 (popcount (s.getS j)))
/-- 106ij1 (R298). -/
def execParityS (i j : Reg) (s : State) : Result := s.deliverS i (BitVec.ofNat 64 (popcount (s.getS j) % 2))
/-- 106ij2, 106ij3: no source lists them (R299). -/
def execUnspecified106Low (_i _j _k : Reg) (_s : State) : Result := .fault .unspecifiedEncoding
/-- 106ij4 to 106ij7: no source lists them (R299). -/
def execUnspecified106High (_i _j _k : Reg) (_s : State) : Result := .fault .unspecifiedEncoding
/-- 107 (R300). -/
def execLeadingZerosS (i j : Reg) (s : State) : Result := s.deliverS i (BitVec.ofNat 64 (lzcount (s.getS j)))
/-- 110 (R301): 64 - jk places; a count of 64 leaves all zeros. -/
def execShiftLeftS (i : Reg) (jk : Short) (s : State) : Result :=
  s.deliverS i (if jk.toNat = 0 then 0 else s.getS i <<< (64 - jk.toNat))
/-- 111 (R302). -/
def execShiftRightS (i : Reg) (jk : Short) (s : State) : Result := s.deliverS i (s.getS i >>> jk.toNat)
/-- 112 (R303). -/
def execDoubleShiftLeftS (i j k : Reg) (s : State) : Result :=
  s.deliverS i (doubleLeft (s.getS i) (s.getS j) (s.getA k).toNat)
/-- 113 (R304). -/
def execDoubleShiftRightS (i j k : Reg) (s : State) : Result :=
  s.deliverS i (doubleRight (s.getS j) (s.getS i) (s.getA k).toNat)
/-- 114 (R305). -/
def execReadVM (i : Reg) (s : State) : Result := s.deliverS i s.vm
/-- 115 (R306): the count of the clock as this step has advanced it (entries 19, 41). -/
def execReadRT (i : Reg) (s : State) : Result := s.deliverS i s.rtc
/-- 116 (R307). -/
def execShortPosS (i : Reg) (jk : Short) (s : State) : Result := s.deliverS i (shortPosS jk)
/-- 117 (R308). -/
def execShortNegS (i : Reg) (jk : Short) (s : State) : Result := s.deliverS i (shortNegS jk)

end Sys2Proof.Machine
end

