-- ==== Sys2Proof/Machine/Float.lean ====
section
/-!
DEFINITION. The floating-point result functions (40_numerics.md R136 to R155). Each answers a word and whether the
operation is an error. What the named properties of the rules fix is computed here; what they leave open is a free
value of `Config`, shaped so that the properties hold whatever it is (R143, D15; entries 21 to 27).
-/

namespace Sys2Proof.Machine

/-! ## Format (R136 to R140) -/

/-- The sign `s`, bit 63. -/
def floatSign (w : Word) : Bool := w.getLsbD 63
/-- The biased exponent `E`, bits 62..48. -/
def floatExp (w : Word) : Nat := (w.extractLsb' 48 15).toNat
/-- The coefficient magnitude `C`, bits 47..0. -/
def floatCoef (w : Word) : Nat := (w.extractLsb' 0 48).toNat
/-- A word from its three fields. -/
def packFloat (sign : Bool) (exp coef : Nat) : Word := BitVec.ofBool sign ++ BitVec.ofNat 15 exp ++ BitVec.ofNat 48 coef

/-- `Ovf`: the exponent has overflowed (R139). -/
def isOverflowed (w : Word) : Bool := decide (0o60000 ≤ floatExp w)
/-- `Unf`: the exponent has underflowed; such a value counts as zero (R139). -/
def isUnderflowed (w : Word) : Bool := decide (floatExp w < 0o20000)
/-- `InRange` (R139). -/
def isInRange (w : Word) : Bool := !isOverflowed w && !isUnderflowed w
/-- `Norm`: the top coefficient bit is 1 (R140). -/
def isNormalized (w : Word) : Bool := w.getLsbD 47

/-- The word with its sign bit complemented. -/
def negateFloat (w : Word) : Word := w ^^^ ((1 : Word) <<< 63)

/-- A forced signature exponent; the other 49 bits are those of the free word `r` (R141). -/
def forceExp (exp : Nat) (r : Word) : Word := packFloat (floatSign r) exp (floatCoef r)

/-- A sum the properties do not fix: the free word `r` with its exponent below the overflow range and its top
coefficient bit set, or the all-zero word if its coefficient is zero (R144 FAdd-zero, FAdd-norm). -/
def openSum (r : Word) : Word :=
  if floatCoef r = 0 then 0 else packFloat (floatSign r) (floatExp r % 0o60000) (floatCoef r ||| 2 ^ 47)

/-! ## Add unit: sum and difference (R144, R145) -/

/-- An underflowed operand of the add unit counts as zero (R139, FAdd-unf). -/
def flushUnderflow (w : Word) : Word := if isUnderflowed w then 0 else w

/-- The coefficient with its sign. -/
def signedCoef (w : Word) : Int := if floatSign w then -(floatCoef w : Int) else floatCoef w

/-- The normalized form of `m * 2^(e - 48)` (sign apart), or `none` where it needs a 49th coefficient bit. `m` is a sum
of two coefficients; zero answers coefficient 0. -/
def normalizeSum (e m : Nat) : Option (Int × Nat) :=
  if m < 2 ^ 48 then some ((e : Int) + Nat.log2 m - 47, m <<< (47 - Nat.log2 m))
  else if m % 2 = 0 then some ((e : Int) + 1, m / 2)
  else none

/-- The operand of greater exponent; `a` if they are equal. -/
def sumHigh (a b : Word) : Word := if floatExp b ≤ floatExp a then a else b
/-- The other operand, whose coefficient is shifted right for exponent matching (R144). -/
def sumLow (a b : Word) : Word := if floatExp b ≤ floatExp a then b else a
/-- How many places it is shifted. -/
def sumShift (a b : Word) : Nat := floatExp (sumHigh a b) - floatExp (sumLow a b)

/-- The exact sum, as sign, exponent and coefficient, where no 1 bit is shifted out during exponent matching and 48 bits
hold it (FAdd-exact); `none` otherwise. -/
def exactSum (a b : Word) : Option (Bool × Int × Nat) :=
  if floatCoef (sumLow a b) % 2 ^ sumShift a b = 0 then
    let sum := signedCoef (sumHigh a b) + signedCoef (sumLow a b) / 2 ^ sumShift a b
    match normalizeSum (floatExp (sumHigh a b)) sum.natAbs with
    | some (e, c) => some (decide (sum < 0), e, c)
    | none => none
  else none

/-- The magnitude of the real sum of two operand values, in units of the smaller exponent's last place. -/
def sumMagnitude (a b : Word) : Nat :=
  (signedCoef (sumHigh a b) * 2 ^ sumShift a b + signedCoef (sumLow a b)).natAbs

/-- The sum's own exponent: that of the normalized real sum, before rounding. -/
def sumExp (a b : Word) : Int := (floatExp (sumLow a b) : Int) + Nat.log2 (sumMagnitude a b) - 47

/-- A real sum just below the overflow range, whose coefficient is all ones, so that rounding can bring its exponent
to 60000 octal. -/
def sumCanCarry (a b : Word) : Bool :=
  decide (sumExp a b = 0o57777) &&
    decide (sumMagnitude a b / 2 ^ (Nat.log2 (sumMagnitude a b) - 47) = 2 ^ 48 - 1)

/-- The result of the add unit for operands `a`, `b`; `r` and `rErr` are the free word and the free signal, which speaks
only where the sum's own exponent reaches 60000 octal (FAdd-resovf). -/
def addResult (r : Word) (rErr : Bool) (a b : Word) : Word × Bool :=
  if isOverflowed a || isOverflowed b then (forceExp 0o60000 r, true)
  else
    match exactSum (flushUnderflow a) (flushUnderflow b) with
    | some (s, e, c) =>
      if c = 0 then (0, false)
      else if 0o60000 ≤ e then (forceExp 0o60000 r, rErr)
      else if e < 0o20000 then (openSum r, false)
      else (packFloat s e.toNat c, false)
    | none =>
      if 0o60000 ≤ sumExp (flushUnderflow a) (flushUnderflow b) then (forceExp 0o60000 r, rErr)
      else if sumCanCarry (flushUnderflow a) (flushUnderflow b) && isOverflowed r then (forceExp 0o60000 r, rErr)
      else (openSum r, false)

/-- The free word of a sum, the same for either order of the operands (FAdd-comm, inferred; entry 21). -/
def addFreeWord (a b : Word) : Word := if a ≤ b then Config.addWord a b else Config.addWord b a
/-- The free signal of a sum, the same for either order of the operands (FAdd-comm). -/
def addFreeErr (a b : Word) : Bool := if a ≤ b then Config.addErr a b else Config.addErr b a

/-- `FAdd(a, b)` (R144). -/
def fAdd (a b : Word) : Word × Bool := addResult (addFreeWord a b) (addFreeErr a b) a b

/-- `FSub(a, b)` (R145): the sum with the subtrahend's sign complemented where b is in range and not zero-valued
(FSub-neg); otherwise the same properties with free values of its own. -/
def fSub (a b : Word) : Word × Bool :=
  if isInRange b && decide (floatCoef b ≠ 0) then fAdd a (negateFloat b)
  else addResult (Config.subWord a b) (Config.subErr a b) a (negateFloat b)

/-! ## Multiply unit: product (R146, R147) -/

/-- The sign of a product (R146 FMul-sign, PRESUMED, entry 22). -/
def productSign (a b : Word) : Bool := floatSign a ^^ floatSign b

/-- The free word of a product, the same for either order of the operands (FMul-comm, inferred; entry 24). -/
def mulFreeWord (a b : Word) : Word := if a ≤ b then Config.mulWord a b else Config.mulWord b a

/-- Case 4 of R146: both exponents zero. The coefficient is the high-order 48 bits of the product, without a normalize
shift: exact where the low-order 48 bits are zero; zero where the product lies wholly below the matrix, which forms
no bit below 2^-56; else open (entry 24). -/
def integerProduct (r a b : Word) : Word :=
  let x := floatCoef a * floatCoef b
  if x % 2 ^ 48 = 0 then packFloat (productSign a b) 0 (x / 2 ^ 48)
  else if x < 2 ^ 40 then packFloat (productSign a b) 0 0
  else packFloat (productSign a b) 0 (floatCoef r)

/-- The free coefficient of a product: normalized where both operands are (R146 FMul-norm). -/
def freeCoef (r a b : Word) : Nat :=
  if isNormalized a && isNormalized b then floatCoef r ||| 2 ^ 47 else floatCoef r

/-- Places a coefficient product is shifted left: one where it is below 1/2 (the 1-bit correction shift). -/
def correction (x : Nat) : Nat := if x < 2 ^ 95 then 1 else 0

/-- The coefficient of the normalized word whose value is that of the coefficient product `x`, where 48 bits hold it and
no 1 bit of `x` lies below weight 2^-56 (FMul-exact); `none` otherwise. -/
def exactCoef (x : Nat) : Option Nat :=
  let n := Nat.log2 x + 1
  if x % 2 ^ 40 ≠ 0 then none
  else if n ≤ 48 then some (x <<< (48 - n))
  else if x % 2 ^ (n - 48) = 0 then some (x / 2 ^ (n - 48))
  else none

/-- A product outside the special cases of R146. Its exponent is the exponent sum, less one where the coefficient product
is below 1/2. Its coefficient is exact where 48 bits hold the product there, else free; only the product of an
unnormalized operand can be exact at lower exponents alone, and then which of those in range it has is free (entry
24). -/
def ordinaryProduct (r a b : Word) : Word :=
  let x := floatCoef a * floatCoef b
  let e := floatExp a + floatExp b - 0o40000 - correction x
  if x % 2 ^ (48 - correction x) = 0 then packFloat (productSign a b) e (x / 2 ^ (48 - correction x))
  else
    match exactCoef x with
    | some c =>
      let low := floatExp a + floatExp b + Nat.log2 x + 1 - 0o40000 - 96
      let least := 0o20000 - low
      let up := max least (floatExp r % 48)
      if c % 2 ^ least ≠ 0 then packFloat (productSign a b) e (freeCoef r a b)
      else if c % 2 ^ up = 0 then packFloat (productSign a b) (low + up) (c / 2 ^ up)
      else packFloat (productSign a b) (low + least) (c / 2 ^ least)
    | none => packFloat (productSign a b) e (freeCoef r a b)

/-- `FMul(a, b)` (R146). The overflow test takes the sum of the exponents, before the normalize correction (entry 23).
An underflowed operand counts as zero (R139, R140; entry 25) but in case 4, which comes before case 3. -/
def fMul (a b : Word) : Word × Bool :=
  let r := mulFreeWord a b
  let sum := floatExp a + floatExp b
  if isOverflowed a || isOverflowed b || decide (0o60000 + 0o40000 ≤ sum) then (forceExp 0o60001 r, true)
  else if floatExp a = 0 ∧ floatExp b = 0 then (integerProduct r a b, false)
  else if isUnderflowed a || isUnderflowed b || decide (sum < 0o20000 + 0o40000) then (0, false)
  else (ordinaryProduct r a b, false)

/-! ## Multiply unit: approximations and iterations (R148 to R151) -/

/-- `FRecip(a)` (R148). The sign of an approximation is its operand's (FRecip-sign, PRESUMED, entry 22); for an
unnormalized operand in range, whose result R148 calls unspecified, the whole word is free, its sign too. -/
def fRecip (a : Word) : Word × Bool :=
  let r := Config.recipWord a
  if isOverflowed a || isUnderflowed a then (forceExp 0o60002 r, true)
  else if isNormalized a then (packFloat (floatSign a) (floatExp r) (floatCoef r), false)
  else (r, false)

/-- The signal of an iteration: cases 1 and 2 of the product, which R149 and R155 infer (DEDUCED, entry 26). -/
def iterationErr (a b : Word) : Bool :=
  isOverflowed a || isOverflowed b || decide (0o60000 + 0o40000 ≤ floatExp a + floatExp b)

/-- `FRsqrt(a)` (R150): an overflowed or negative operand is an error; an exponent of 0 to 3 forces the signature
exponent without a signal. DESIGN CHOICE where both hold, the sign being 1 and the exponent 0 to 3: the sign is tested
first and signals (R150 says both; entry 42). That the sign alone makes an operand negative is R150's own choice. -/
def fRsqrt (a : Word) : Word × Bool :=
  let r := Config.rsqrtWord a
  if isOverflowed a || floatSign a then (forceExp 0o60004 r, true)
  else if floatExp a ≤ 3 then (forceExp 0o60004 r, false)
  else (r, false)

/-- The word of an iteration that has its operands as its algorithm prescribes: the forced words of the product's cases 1
to 3, which R149 and R155 infer, else the free word `r` (DEDUCED, entry 26). -/
def iterationWord (r a b : Word) : Word :=
  if iterationErr a b then forceExp 0o60001 r
  else if floatExp a + floatExp b < 0o20000 + 0o40000 then 0
  else r

/-- `FRecipIter(a, b)` (R149). For `b` the word of FRecip(a), erring or not, the special cases are those inferred from
the product's; for other operands any word results (R327, 93_implementation_defined.md item 9; entry 26). -/
def fRecipIter (a b : Word) : Word × Bool :=
  let r := Config.recipIterWord a b
  (if b = (fRecip a).1 then iterationWord r a b else r, iterationErr a b)

/-- Some word whose high-order bits are the number `w`, and whose `n` low-order bits are any, satisfies `p`. -/
def someWord (p : Word → Bool) : Nat → Nat → Bool
  | 0, w => p (BitVec.ofNat 64 w)
  | n + 1, w => someWord p n (2 * w) || someWord p n (2 * w + 1)

/-- The operands come from the algorithm of R152: for some word x, `a` is FRsqrt(x) and `b` is FMul(x, a). -/
def fromRsqrt (a b : Word) : Bool :=
  someWord (fun x => decide ((fRsqrt x).1 = a) && decide ((fMul x a).1 = b)) 64 0

/-- The operands meet one of the special cases; only then does it matter where they come from. -/
def iterationForced (a b : Word) : Bool :=
  iterationErr a b || decide (floatExp a + floatExp b < 0o20000 + 0o40000)

/-- `FRsqrtIter(a, b)` (R151). For operands as in R152 the special cases are those inferred from the product's; for other
operands any word results (R151, R328, 93_implementation_defined.md item 9; entry 26). -/
def fRsqrtIter (a b : Word) : Word × Bool :=
  let r := Config.sqrtIterWord a b
  (if iterationForced a b && fromRsqrt a b then iterationWord r a b else r, iterationErr a b)

/-! ## Conversions (R153, R154) -/

/-- The 64-bit integer of magnitude `m`, negative if `sign`. -/
def signedWord (sign : Bool) (m : Nat) : Word := if sign then -BitVec.ofNat 64 m else BitVec.ofNat 64 m

/-- `FFix(a)` (R153). -/
def fFix (a : Word) : Word × Bool :=
  if isUnderflowed a then (0, false)
  else if isOverflowed a then (0, true)
  else if 0o40060 ≤ floatExp a then
    let m := floatCoef a <<< (floatExp a - 0o40060)
    if 2 ^ 48 ≤ m then (0, true)
    else if 2 ^ 47 ≤ m then (Config.fixWord a, Config.fixErr a)
    else (signedWord (floatSign a) m, false)
  else
    let d := 0o40060 - floatExp a
    let m := floatCoef a >>> d
    if 2 ^ 47 ≤ m then (Config.fixWord a, Config.fixErr a)
    else if floatCoef a % 2 ^ d = 0 then (signedWord (floatSign a) m, false)
    else (signedWord (floatSign a) (if Config.fixAway a then m + 1 else m), false)

/-- `FFlt(a)` (R154): never an error. -/
def fFloat (a : Word) : Word × Bool :=
  if -(2 ^ 47) ≤ a.toInt ∧ a.toInt < 2 ^ 47 then
    let m := a.toInt.natAbs
    if m = 0 then (0, false)
    else (packFloat (decide (a.toInt < 0)) (0o40001 + Nat.log2 m) (m <<< (47 - Nat.log2 m)), false)
  else (Config.floatWord (a.extractLsb' 0 48), false)

end Sys2Proof.Machine
end

