-- ==== Sys2Proof/Machine/ScalarFloat.lean ====
section
/-!
DEFINITION. Instructions 120 to 137: scalar floating point, transfers from A to S registers, pass
(46_scalar_float.md R320 to R336).
-/

namespace Sys2Proof.Machine

/-- `(w, err) = x; S[i] <- w; if err then raise FloatError` (R320). -/
def State.floatS (s : State) (i : Reg) (x : Word × Bool) : Result :=
  .next (((s.setS i x.1).advance 1).signal .floatError x.2)

/-- `S[i] <- v` with no signal. -/
def State.transferS (s : State) (i : Reg) (v : Word) : Result := .next ((s.setS i v).advance 1)

/-- 120 (R321). -/
def execFaddS (i j k : Reg) (s : State) : Result := s.floatS i (fAdd (s.getS j) (s.getS k))
/-- 121 (R322). -/
def execFsubS (i j k : Reg) (s : State) : Result := s.floatS i (fSub (s.getS j) (s.getS k))
/-- 122 (R323). -/
def execFixS (i k : Reg) (s : State) : Result := s.floatS i (fFix (s.getS k))
/-- 123 (R324): never an error. -/
def execFloatS (i k : Reg) (s : State) : Result := s.transferS i (fFloat (s.getS k)).1
/-- 124 (R325). -/
def execFmulS (i j k : Reg) (s : State) : Result := s.floatS i (fMul (s.getS j) (s.getS k))
/-- 125 executes as 124 (R326). -/
def execFmulSAlt (i j k : Reg) (s : State) : Result := s.floatS i (fMul (s.getS j) (s.getS k))
/-- 126 (R327). -/
def execRecipIterS (i j k : Reg) (s : State) : Result := s.floatS i (fRecipIter (s.getS j) (s.getS k))
/-- 127 (R328). -/
def execSqrtIterS (i j k : Reg) (s : State) : Result := s.floatS i (fRsqrtIter (s.getS j) (s.getS k))
/-- 130 (R329). -/
def execMoveAToS (i k : Reg) (s : State) : Result := s.transferS i (zeroExtend (s.getA k))
/-- 131 (R330). -/
def execMoveAToSSigned (i k : Reg) (s : State) : Result := s.transferS i (signExtend (s.getA k))
/-- 132 (R331). -/
def execRecipS (i j : Reg) (s : State) : Result := s.floatS i (fRecip (s.getS j))
/-- 133 (R332). -/
def execRsqrtS (i j : Reg) (s : State) : Result := s.floatS i (fRsqrt (s.getS j))
/-- 134 (R333). -/
def execPass134 (s : State) : Result := .next (s.advance 1)
/-- 135 (R334). -/
def execPass135 (s : State) : Result := .next (s.advance 1)
/-- 136 (R335). -/
def execPass136 (s : State) : Result := .next (s.advance 1)
/-- 137 (R336). -/
def execPass137 (s : State) : Result := .next (s.advance 1)

end Sys2Proof.Machine
end

