-- ==== Sys2Proof/Machine/VectorArith.lean ====
section
/-!
DEFINITION. Instructions 154 to 177: vector floating point, integer and count operations, compressed iota
(48_vector_float_integer.md R380 to R410).
-/

namespace Sys2Proof.Machine

/-- `V[i][e] <- f e` for the elements of the vector, with no signal. -/
def State.resultV (s : State) (i : Reg) (f : Nat → Word) : Result := .next ((s.setV i s.vlen f).advance 1)

/-- `(w, err_e) = f e; V[i][e] <- w` for the elements of the vector, then `raise FloatError` once if any erred (R380). -/
def State.floatV (s : State) (i : Reg) (f : Nat → Word × Bool) : Result :=
  .next (((s.setV i s.vlen fun e => (f e).1).advance 1).signal .floatError (anyBelow (fun e => (f e).2) s.vlen))

/-- `Iota(t, d)` (R401): the high-order half is free where t * d is 2^31 or more (entry 28). -/
def iotaWord (free t d : Nat) : Word :=
  (if t * d < 2 ^ 31 then 0 else Config.iotaHigh free t d) ++ BitVec.ofNat 32 (t * d)

/-- How many mask bits a compressed iota examines (R402). -/
def State.iotaLimit (s : State) : Nat := if Config.iotaVL then s.vlen else 64

/-- The positions below `n` whose mask bit is 1, in order (R409). -/
def onePositions (m : Word) : Nat → List Nat
  | 0 => []
  | n + 1 => if maskBit m n then onePositions m n ++ [n] else onePositions m n

/-- Compressed iota of mask `m` and stride `d` to V_i; the elements past the result keep their contents (R409). -/
def State.deliverIota (s : State) (i : Reg) (m : Word) (d : Nat) : Result :=
  .next ((s.setV i (onePositions m s.iotaLimit).length fun e =>
    iotaWord s.freeIndex ((onePositions m s.iotaLimit).getD e 0) d).advance 1)

/-- 154 (R381). -/
def execFmulSV (i j k : Reg) (s : State) : Result := s.floatV i fun e => fMul (s.getS j) (s.vsrc i k e)
/-- 155 (R382). -/
def execFmulVV (i j k : Reg) (s : State) : Result := s.floatV i fun e => fMul (s.vsrc i j e) (s.vsrc i k e)
/-- 156 (R383). -/
def execRecipIterVV (i j k : Reg) (s : State) : Result := s.floatV i fun e => fRecipIter (s.vsrc i j e) (s.vsrc i k e)
/-- 157 (R384). -/
def execSqrtIterVV (i j k : Reg) (s : State) : Result := s.floatV i fun e => fRsqrtIter (s.vsrc i j e) (s.vsrc i k e)
/-- 160 (R385). -/
def execAddSV (i j k : Reg) (s : State) : Result := s.resultV i fun e => s.getS j + s.vsrc i k e
/-- 161 (R386). -/
def execAddVV (i j k : Reg) (s : State) : Result := s.resultV i fun e => s.vsrc i j e + s.vsrc i k e
/-- 162 (R387). -/
def execSubSV (i j k : Reg) (s : State) : Result := s.resultV i fun e => s.getS j - s.vsrc i k e
/-- 163 (R388). -/
def execSubVV (i j k : Reg) (s : State) : Result := s.resultV i fun e => s.vsrc i j e - s.vsrc i k e
/-- 164ij0 (R389). -/
def execPopcountV (i j : Reg) (s : State) : Result := s.resultV i fun e => BitVec.ofNat 64 (popcount (s.vsrc i j e))
/-- 164ij1 (R390). -/
def execParityV (i j : Reg) (s : State) : Result := s.resultV i fun e => BitVec.ofNat 64 (popcount (s.vsrc i j e) % 2)
/-- 164ij2, 164ij3: no source lists them (R391). -/
def execUnspecified164Low (_i _j _k : Reg) (_s : State) : Result := .fault .unspecifiedEncoding
/-- 164ij4 to 164ij7: no source lists them (R391). -/
def execUnspecified164High (_i _j _k : Reg) (_s : State) : Result := .fault .unspecifiedEncoding
/-- 165 (R392). -/
def execLeadingZerosV (i j : Reg) (s : State) : Result :=
  s.resultV i fun e => BitVec.ofNat 64 (lzcount (s.vsrc i j e))
/-- 166 (R393). -/
def execRecipV (i k : Reg) (s : State) : Result := s.floatV i fun e => fRecip (s.vsrc i k e)
/-- 167 (R394). -/
def execRsqrtV (i k : Reg) (s : State) : Result := s.floatV i fun e => fRsqrt (s.vsrc i k e)
/-- 170 (R395). -/
def execFaddSV (i j k : Reg) (s : State) : Result := s.floatV i fun e => fAdd (s.getS j) (s.vsrc i k e)
/-- 171 (R396). -/
def execFaddVV (i j k : Reg) (s : State) : Result := s.floatV i fun e => fAdd (s.vsrc i j e) (s.vsrc i k e)
/-- 172 (R397). -/
def execFsubSV (i j k : Reg) (s : State) : Result := s.floatV i fun e => fSub (s.getS j) (s.vsrc i k e)
/-- 173 (R398). -/
def execFsubVV (i j k : Reg) (s : State) : Result := s.floatV i fun e => fSub (s.vsrc i j e) (s.vsrc i k e)
/-- 174 (R399). -/
def execFixV (i k : Reg) (s : State) : Result := s.floatV i fun e => fFix (s.vsrc i k e)
/-- 175 (R400). -/
def execFloatV (i k : Reg) (s : State) : Result := s.resultV i fun e => (fFloat (s.vsrc i k e)).1
/-- 176 (R409): the mask is (S_j), the stride the low-order half of (S_k). -/
def execIota (i j k : Reg) (s : State) : Result := s.deliverIota i (s.getS j) (lowHalf (s.getS k)).toNat
/-- 177 executes as 176 (R410). -/
def execIotaAlt (i j k : Reg) (s : State) : Result := s.deliverIota i (s.getS j) (lowHalf (s.getS k)).toNat

end Sys2Proof.Machine
end

