-- ==== Sys2Proof/Machine/VectorLogical.lean ====
section
/-!
DEFINITION. Instructions 140 to 153: vector logical operations, merges and shifts (47_vector_logical_shift.md R350 to
R362).
-/

namespace Sys2Proof.Machine

/-- `V[i][e] <- f e` for the elements of the vector (10_state.md R34). -/
def State.deliverV (s : State) (i : Reg) (f : Nat → Word) : Result := .next ((s.setV i s.vlen f).advance 1)

/-- 140 (R351). -/
def execAndSV (i j k : Reg) (s : State) : Result := s.deliverV i fun e => s.getS j &&& s.vsrc i k e
/-- 141 (R352). -/
def execAndVV (i j k : Reg) (s : State) : Result := s.deliverV i fun e => s.vsrc i j e &&& s.vsrc i k e
/-- 142 (R353). -/
def execXorSV (i j k : Reg) (s : State) : Result := s.deliverV i fun e => s.getS j ^^^ s.vsrc i k e
/-- 143 (R354). -/
def execXorVV (i j k : Reg) (s : State) : Result := s.deliverV i fun e => s.vsrc i j e ^^^ s.vsrc i k e
/-- 144 (R355). -/
def execOrSV (i j k : Reg) (s : State) : Result := s.deliverV i fun e => s.getS j ||| s.vsrc i k e
/-- 145 (R356). -/
def execOrVV (i j k : Reg) (s : State) : Result := s.deliverV i fun e => s.vsrc i j e ||| s.vsrc i k e
/-- 146 (R357). -/
def execMergeSV (i j k : Reg) (s : State) : Result :=
  s.deliverV i fun e => if maskBit s.vm e then s.getS j else s.vsrc i k e
/-- 147 (R358). -/
def execMergeVV (i j k : Reg) (s : State) : Result :=
  s.deliverV i fun e => if maskBit s.vm e then s.vsrc i j e else s.vsrc i k e
/-- 150 (R359): a count of 64 or more leaves zeros. -/
def execShiftLeftV (i j k : Reg) (s : State) : Result :=
  s.deliverV i fun e => if 64 ≤ (s.getA k).toNat then 0 else s.vsrc i j e <<< (s.getA k).toNat
/-- 151 (R360). -/
def execShiftRightV (i j k : Reg) (s : State) : Result :=
  s.deliverV i fun e => if 64 ≤ (s.getA k).toNat then 0 else s.vsrc i j e >>> (s.getA k).toNat
/-- 152 (R361): each element with the following one, zero after the last; the last is element vlen() - 1 (D18). -/
def execDoubleShiftLeftV (i j k : Reg) (s : State) : Result :=
  s.deliverV i fun e =>
    doubleLeft (s.vsrc i j e) (if e + 1 < s.vlen then s.vsrc i j (e + 1) else 0) (s.getA k).toNat
/-- 153 (R362): each element with the preceding one, zero before the first. -/
def execDoubleShiftRightV (i j k : Reg) (s : State) : Result :=
  s.deliverV i fun e => doubleRight (if e = 0 then 0 else s.vsrc i j (e - 1)) (s.vsrc i j e) (s.getA k).toNat

end Sys2Proof.Machine
end

