-- ==== Sys2Proof/Syntax.lean ====
section
/-!
DEFINITION. The instructions of the Background Processor, one constructor per row of spec/opcode_table.json, in its
order (30_encoding.md R107). A constructor holds the designators the instruction uses and its constant; the fields
shown as x in the form are ignored by the hardware and have no place here (R105).
-/

namespace Sys2Proof

/-- An instruction: its operation, its register designators and its constant (`c`: K16 = m1, K32 = m1 : m2,
K64 = m1 : m2 : m3 : m4, R104). -/
inductive Instr where
  -- Exits, jumps, Semaphore instructions, conditional branches (41_branch_exit_semaphore.md)
  /-- `000xjk`: exit to idle mode, code jk (R171). -/
  | exit (jk : Short)
  /-- `001xjk`: executes as 000xjk (R172). -/
  | exitAlt (jk : Short)
  /-- `002ixk`: register jump with return address (R174). -/
  | jumpReg (i : Reg) (k : Reg)
  /-- `003xxx m1 m2`: unconditional jump (R175). -/
  | jump (c : Addr)
  /-- `004xxx m1 m2`: jump if Semaphore clear; set Semaphore (R176). -/
  | jumpSemClear (c : Addr)
  /-- `005xxx m1 m2`: jump if Semaphore set; set Semaphore (R177). -/
  | jumpSemSet (c : Addr)
  /-- `006xxx`: set Semaphore (R178). -/
  | setSem
  /-- `007xxx`: clear Semaphore, drain writes (R179). -/
  | clearSem
  /-- `010xxk m1 m2`: branch if (A_k) zero (R180). -/
  | jumpAZero (k : Reg) (c : Addr)
  /-- `011xxk m1 m2`: branch if (A_k) nonzero (R181). -/
  | jumpANonzero (k : Reg) (c : Addr)
  /-- `012xxk m1 m2`: branch if (A_k) positive (R182). -/
  | jumpAPositive (k : Reg) (c : Addr)
  /-- `013xxk m1 m2`: branch if (A_k) negative (R183). -/
  | jumpANegative (k : Reg) (c : Addr)
  /-- `014xjx m1 m2`: branch if (S_j) zero (R184). -/
  | jumpSZero (j : Reg) (c : Addr)
  /-- `015xjx m1 m2`: branch if (S_j) nonzero (R185). -/
  | jumpSNonzero (j : Reg) (c : Addr)
  /-- `016xjx m1 m2`: branch if (S_j) positive (R186). -/
  | jumpSPositive (j : Reg) (c : Addr)
  /-- `017xjx m1 m2`: branch if (S_j) negative (R187). -/
  | jumpSNegative (j : Reg) (c : Addr)
  -- Address arithmetic, short constants, vector mask, halt enables, vector length (42_address_vm_vl.md)
  /-- `020ijk`: 32-bit integer sum (R201). -/
  | addA (i : Reg) (j : Reg) (k : Reg)
  /-- `021ijk`: 32-bit integer difference (R202). -/
  | subA (i : Reg) (j : Reg) (k : Reg)
  /-- `022ijk`: 32-bit integer product (low 32 bits) (R203). -/
  | mulA (i : Reg) (j : Reg) (k : Reg)
  /-- `023ijk`: executes as 022ijk (R204). -/
  | mulAAlt (i : Reg) (j : Reg) (k : Reg)
  /-- `024ijx`: low 32 bits of (S_j) to A_i (R205). -/
  | moveSToA (i : Reg) (j : Reg)
  /-- `025ixx`: (VL) to A_i (R206). -/
  | readVL (i : Reg)
  /-- `026ijk`: 6-bit jk, zero-extended, to A_i (R207). -/
  | shortPosA (i : Reg) (jk : Short)
  /-- `027ijk`: 6-bit jk, ones-extended, to A_i (R208). -/
  | shortNegA (i : Reg) (jk : Short)
  /-- `030xxk`: VM from zero elements of V_k (R210). -/
  | maskZero (k : Reg)
  /-- `031xxk`: VM from nonzero elements (R211). -/
  | maskNonzero (k : Reg)
  /-- `032xxk`: VM from positive elements (R212). -/
  | maskPositive (k : Reg)
  /-- `033xxk`: VM from negative elements (R213). -/
  | maskNegative (k : Reg)
  /-- `034xjx`: (S_j) to VM (R214). -/
  | writeVM (j : Reg)
  /-- `035xx0`: disable halt on operand range error (R216). -/
  | disableRangeHalt
  /-- `035xx1`: enable halt on operand range error (R217). -/
  | enableRangeHalt
  /-- `035xx2`: disable halt on floating-point error (R218). -/
  | disableFloatHalt
  /-- `035xx3`: enable halt on floating-point error (R219). -/
  | enableFloatHalt
  /-- `035xxk`: not listed by the sources: k = 4..7 (R220). -/
  | unspecified035 (k : Reg)
  /-- `036xxk`: low 6 bits of (A_k) to VL (R221). -/
  | writeVL (k : Reg)
  /-- `037xxk`: executes as 036xxk (R222). -/
  | writeVLAlt (k : Reg)
  -- Constants, Local Memory transfers (43_entry_local_memory.md)
  /-- `040ixx m1`: 16-bit constant, zero-extended, to A_i (R231). -/
  | parcelPosA (i : Reg) (c : Parcel)
  /-- `041ixx m1`: 16-bit constant, ones-extended, to A_i (R232). -/
  | parcelNegA (i : Reg) (c : Parcel)
  /-- `042ixx m1 m2`: 32-bit constant to A_i (R233). -/
  | halfA (i : Reg) (c : Addr)
  /-- `043ixx m1 m2`: executes as 042ixx (R234). -/
  | halfAAlt (i : Reg) (c : Addr)
  /-- `044ixx m1`: Local Memory word (low 32 bits) to A_i (R235). -/
  | loadALocal (i : Reg) (c : Parcel)
  /-- `045xxk m1`: (A_k) sign-extended to Local Memory (R236). -/
  | storeALocal (k : Reg) (c : Parcel)
  /-- `046ixk`: Local Memory at (A_k) to A_i (R237). -/
  | loadALocalReg (i : Reg) (k : Reg)
  /-- `047xjk`: (A_j) sign-extended to Local Memory at (A_k) (R238). -/
  | storeALocalReg (j : Reg) (k : Reg)
  /-- `050ixx m1 m2`: 32-bit constant, zero-extended, to S_i (R239). -/
  | halfPosS (i : Reg) (c : Addr)
  /-- `051ixx m1 m2`: 32-bit constant, ones-extended, to S_i (R240). -/
  | halfNegS (i : Reg) (c : Addr)
  /-- `052ixx m1 m2`: 32-bit constant to high half of S_i, low half zero (R241). -/
  | leftS (i : Reg) (c : Addr)
  /-- `053ixx m1 m2 m3 m4`: 64-bit constant to S_i (R242). -/
  | fullS (i : Reg) (c : Word)
  /-- `054ixx m1`: Local Memory word to S_i (R243). -/
  | loadSLocal (i : Reg) (c : Parcel)
  /-- `055xjx m1`: (S_j) to Local Memory (R244). -/
  | storeSLocal (j : Reg) (c : Parcel)
  /-- `056ixk`: Local Memory at (A_k) to S_i (R245). -/
  | loadSLocalReg (i : Reg) (k : Reg)
  /-- `057ixk`: (S_i) to Local Memory at (A_k) (R246). -/
  | storeSLocalReg (i : Reg) (k : Reg)
  -- Common Memory references, vector Local Memory transfers, pass (44_common_memory.md)
  /-- `060ijk`: Common Memory at (A_j)+(A_k) to S_i (R261). -/
  | loadSIndexed (i : Reg) (j : Reg) (k : Reg)
  /-- `061ijk`: (S_i) to Common Memory at (A_j)+(A_k) (R262). -/
  | storeSIndexed (i : Reg) (j : Reg) (k : Reg)
  /-- `062ixk`: Common Memory at (A_k) to S_i (R263). -/
  | loadSReg (i : Reg) (k : Reg)
  /-- `063ixk`: (S_i) to Common Memory at (A_k) (R264). -/
  | storeSReg (i : Reg) (k : Reg)
  /-- `064ixk m1 m2`: Common Memory at (A_k)+exp to S_i (R265). -/
  | loadSDisp (i : Reg) (k : Reg) (c : Addr)
  /-- `065ixk m1 m2`: (S_i) to Common Memory at (A_k)+exp (R266). -/
  | storeSDisp (i : Reg) (k : Reg) (c : Addr)
  /-- `066ixx m1 m2`: Common Memory at exp to S_i (R267). -/
  | loadSDirect (i : Reg) (c : Addr)
  /-- `067ixx m1 m2`: (S_i) to Common Memory at exp (R268). -/
  | storeSDirect (i : Reg) (c : Addr)
  /-- `070ijk`: strided vector load (R269). -/
  | loadVStride (i : Reg) (j : Reg) (k : Reg)
  /-- `071ijk`: strided vector store (R270). -/
  | storeVStride (i : Reg) (j : Reg) (k : Reg)
  /-- `072ijk`: gather (R271). -/
  | gatherV (i : Reg) (j : Reg) (k : Reg)
  /-- `073ijk`: scatter (R272). -/
  | scatterV (i : Reg) (j : Reg) (k : Reg)
  /-- `074ixk`: Local Memory to V_i (R273). -/
  | loadVLocal (i : Reg) (k : Reg)
  /-- `075ixk`: V_i to Local Memory (R274). -/
  | storeVLocal (i : Reg) (k : Reg)
  /-- `076xxx`: no operation (R275). -/
  | pass
  /-- `077xxx`: executes as 076xxx (R276). -/
  | passAlt
  -- Scalar logical, integer, counts, shifts, VM and clock reads, short constants (45_scalar_logical_integer_shift.md)
  /-- `100ijk`: logical product (R291). -/
  | andS (i : Reg) (j : Reg) (k : Reg)
  /-- `101ijk`: (S_j) and not (S_k) (R292). -/
  | andNotS (i : Reg) (j : Reg) (k : Reg)
  /-- `102ijk`: logical difference (exclusive or) (R293). -/
  | xorS (i : Reg) (j : Reg) (k : Reg)
  /-- `103ijk`: logical sum (or); copy (R294). -/
  | orS (i : Reg) (j : Reg) (k : Reg)
  /-- `104ijk`: 64-bit integer sum (R295). -/
  | addS (i : Reg) (j : Reg) (k : Reg)
  /-- `105ijk`: 64-bit integer difference (R296). -/
  | subS (i : Reg) (j : Reg) (k : Reg)
  /-- `106ij0`: population count (R297). -/
  | popcountS (i : Reg) (j : Reg)
  /-- `106ij1`: population count parity (R298). -/
  | parityS (i : Reg) (j : Reg)
  /-- `106ijk`: not listed by the sources: k = 2, 3 (R299). -/
  | unspecified106Low (i : Reg) (j : Reg) (k : Reg)
  /-- `106ijk`: not listed by the sources: k = 4..7 (R299). -/
  | unspecified106High (i : Reg) (j : Reg) (k : Reg)
  /-- `107ijx`: leading zero count (R300). -/
  | leadingZerosS (i : Reg) (j : Reg)
  /-- `110ijk`: shift (S_i) left 64-jk (R301). -/
  | shiftLeftS (i : Reg) (jk : Short)
  /-- `111ijk`: shift (S_i) right jk (R302). -/
  | shiftRightS (i : Reg) (jk : Short)
  /-- `112ijk`: double shift left by (A_k) (R303). -/
  | doubleShiftLeftS (i : Reg) (j : Reg) (k : Reg)
  /-- `113ijk`: double shift right by (A_k) (R304). -/
  | doubleShiftRightS (i : Reg) (j : Reg) (k : Reg)
  /-- `114ixx`: (VM) to S_i (R305). -/
  | readVM (i : Reg)
  /-- `115ixx`: real-time clock to S_i (R306). -/
  | readRT (i : Reg)
  /-- `116ijk`: 6-bit jk, zero-extended, to S_i (R307). -/
  | shortPosS (i : Reg) (jk : Short)
  /-- `117ijk`: 6-bit jk, ones-extended, to S_i (R308). -/
  | shortNegS (i : Reg) (jk : Short)
  -- Scalar floating point, A to S transfers, pass codes (46_scalar_float.md)
  /-- `120ijk`: floating-point sum (R321). -/
  | faddS (i : Reg) (j : Reg) (k : Reg)
  /-- `121ijk`: floating-point difference (R322). -/
  | fsubS (i : Reg) (j : Reg) (k : Reg)
  /-- `122ixk`: floating-point to integer (R323). -/
  | fixS (i : Reg) (k : Reg)
  /-- `123ixk`: integer to floating-point (R324). -/
  | floatS (i : Reg) (k : Reg)
  /-- `124ijk`: floating-point product (R325). -/
  | fmulS (i : Reg) (j : Reg) (k : Reg)
  /-- `125ijk`: executes as 124ijk (R326). -/
  | fmulSAlt (i : Reg) (j : Reg) (k : Reg)
  /-- `126ijk`: reciprocal iteration 2-(S_j)*(S_k) (R327). -/
  | recipIterS (i : Reg) (j : Reg) (k : Reg)
  /-- `127ijk`: square root iteration [3-(S_j)*(S_k)]/2 (R328). -/
  | sqrtIterS (i : Reg) (j : Reg) (k : Reg)
  /-- `130ixk`: (A_k) zero-extended to S_i (R329). -/
  | moveAToS (i : Reg) (k : Reg)
  /-- `131ixk`: (A_k) sign-extended to S_i (R330). -/
  | moveAToSSigned (i : Reg) (k : Reg)
  /-- `132ijx`: reciprocal approximation (R331). -/
  | recipS (i : Reg) (j : Reg)
  /-- `133ijx`: reciprocal square root approximation (R332). -/
  | rsqrtS (i : Reg) (j : Reg)
  /-- `134xxx`: pass (no operation) (R333). -/
  | pass134
  /-- `135xxx`: pass (no operation) (R334). -/
  | pass135
  /-- `136xxx`: pass (no operation) (R335). -/
  | pass136
  /-- `137xxx`: pass (no operation) (R336). -/
  | pass137
  -- Vector logical, merges, shifts (47_vector_logical_shift.md)
  /-- `140ijk`: logical products (R351). -/
  | andSV (i : Reg) (j : Reg) (k : Reg)
  /-- `141ijk`: logical products (R352). -/
  | andVV (i : Reg) (j : Reg) (k : Reg)
  /-- `142ijk`: logical differences (R353). -/
  | xorSV (i : Reg) (j : Reg) (k : Reg)
  /-- `143ijk`: logical differences (R354). -/
  | xorVV (i : Reg) (j : Reg) (k : Reg)
  /-- `144ijk`: logical sums (R355). -/
  | orSV (i : Reg) (j : Reg) (k : Reg)
  /-- `145ijk`: logical sums; copy (R356). -/
  | orVV (i : Reg) (j : Reg) (k : Reg)
  /-- `146ijk`: merge (S_j) / (V_k) under VM (R357). -/
  | mergeSV (i : Reg) (j : Reg) (k : Reg)
  /-- `147ijk`: merge (V_j) / (V_k) under VM (R358). -/
  | mergeVV (i : Reg) (j : Reg) (k : Reg)
  /-- `150ijk`: shift elements left by (A_k) (R359). -/
  | shiftLeftV (i : Reg) (j : Reg) (k : Reg)
  /-- `151ijk`: shift elements right by (A_k) (R360). -/
  | shiftRightV (i : Reg) (j : Reg) (k : Reg)
  /-- `152ijk`: double shift left across elements (R361). -/
  | doubleShiftLeftV (i : Reg) (j : Reg) (k : Reg)
  /-- `153ijk`: double shift right across elements (R362). -/
  | doubleShiftRightV (i : Reg) (j : Reg) (k : Reg)
  -- Vector floating point, integer, counts, compressed iota (48_vector_float_integer.md)
  /-- `154ijk`: floating-point products (R381). -/
  | fmulSV (i : Reg) (j : Reg) (k : Reg)
  /-- `155ijk`: floating-point products (R382). -/
  | fmulVV (i : Reg) (j : Reg) (k : Reg)
  /-- `156ijk`: reciprocal iterations (R383). -/
  | recipIterVV (i : Reg) (j : Reg) (k : Reg)
  /-- `157ijk`: square root iterations (R384). -/
  | sqrtIterVV (i : Reg) (j : Reg) (k : Reg)
  /-- `160ijk`: integer sums (R385). -/
  | addSV (i : Reg) (j : Reg) (k : Reg)
  /-- `161ijk`: integer sums (R386). -/
  | addVV (i : Reg) (j : Reg) (k : Reg)
  /-- `162ijk`: integer differences (R387). -/
  | subSV (i : Reg) (j : Reg) (k : Reg)
  /-- `163ijk`: integer differences (R388). -/
  | subVV (i : Reg) (j : Reg) (k : Reg)
  /-- `164ij0`: population counts (R389). -/
  | popcountV (i : Reg) (j : Reg)
  /-- `164ij1`: population count parities (R390). -/
  | parityV (i : Reg) (j : Reg)
  /-- `164ijk`: not listed by the sources: k = 2, 3 (R391). -/
  | unspecified164Low (i : Reg) (j : Reg) (k : Reg)
  /-- `164ijk`: not listed by the sources: k = 4..7 (R391). -/
  | unspecified164High (i : Reg) (j : Reg) (k : Reg)
  /-- `165ijx`: leading zero counts (R392). -/
  | leadingZerosV (i : Reg) (j : Reg)
  /-- `166ixk`: reciprocal approximations (R393). -/
  | recipV (i : Reg) (k : Reg)
  /-- `167ixk`: reciprocal square root approximations (R394). -/
  | rsqrtV (i : Reg) (k : Reg)
  /-- `170ijk`: floating-point sums (R395). -/
  | faddSV (i : Reg) (j : Reg) (k : Reg)
  /-- `171ijk`: floating-point sums (R396). -/
  | faddVV (i : Reg) (j : Reg) (k : Reg)
  /-- `172ijk`: floating-point differences (R397). -/
  | fsubSV (i : Reg) (j : Reg) (k : Reg)
  /-- `173ijk`: floating-point differences (R398). -/
  | fsubVV (i : Reg) (j : Reg) (k : Reg)
  /-- `174ixk`: floating-point to integer (R399). -/
  | fixV (i : Reg) (k : Reg)
  /-- `175ixk`: integer to floating-point (R400). -/
  | floatV (i : Reg) (k : Reg)
  /-- `176ijk`: compressed iota (R409). -/
  | iota (i : Reg) (j : Reg) (k : Reg)
  /-- `177ijk`: executes as 176ijk (R410). -/
  | iotaAlt (i : Reg) (j : Reg) (k : Reg)
  deriving DecidableEq, Repr

end Sys2Proof
end

