-- ==== Sys2Proof/Machine/Dispatch.lean ====
section
/-!
DEFINITION. Which meaning each instruction has: one arm per constructor.
-/

namespace Sys2Proof.Machine

def exec (i : Instr) (s : State) : Host.Outcome State Fault Refusal :=
  match i with
  | .exit jk => Sys2Proof.Machine.execExit jk s
  | .exitAlt jk => Sys2Proof.Machine.execExitAlt jk s
  | .jumpReg ri rk => Sys2Proof.Machine.execJumpReg ri rk s
  | .jump c => Sys2Proof.Machine.execJump c s
  | .jumpSemClear c => Sys2Proof.Machine.execJumpSemClear c s
  | .jumpSemSet c => Sys2Proof.Machine.execJumpSemSet c s
  | .setSem => Sys2Proof.Machine.execSetSem s
  | .clearSem => Sys2Proof.Machine.execClearSem s
  | .jumpAZero rk c => Sys2Proof.Machine.execJumpAZero rk c s
  | .jumpANonzero rk c => Sys2Proof.Machine.execJumpANonzero rk c s
  | .jumpAPositive rk c => Sys2Proof.Machine.execJumpAPositive rk c s
  | .jumpANegative rk c => Sys2Proof.Machine.execJumpANegative rk c s
  | .jumpSZero rj c => Sys2Proof.Machine.execJumpSZero rj c s
  | .jumpSNonzero rj c => Sys2Proof.Machine.execJumpSNonzero rj c s
  | .jumpSPositive rj c => Sys2Proof.Machine.execJumpSPositive rj c s
  | .jumpSNegative rj c => Sys2Proof.Machine.execJumpSNegative rj c s
  | .addA ri rj rk => Sys2Proof.Machine.execAddA ri rj rk s
  | .subA ri rj rk => Sys2Proof.Machine.execSubA ri rj rk s
  | .mulA ri rj rk => Sys2Proof.Machine.execMulA ri rj rk s
  | .mulAAlt ri rj rk => Sys2Proof.Machine.execMulAAlt ri rj rk s
  | .moveSToA ri rj => Sys2Proof.Machine.execMoveSToA ri rj s
  | .readVL ri => Sys2Proof.Machine.execReadVL ri s
  | .shortPosA ri jk => Sys2Proof.Machine.execShortPosA ri jk s
  | .shortNegA ri jk => Sys2Proof.Machine.execShortNegA ri jk s
  | .maskZero rk => Sys2Proof.Machine.execMaskZero rk s
  | .maskNonzero rk => Sys2Proof.Machine.execMaskNonzero rk s
  | .maskPositive rk => Sys2Proof.Machine.execMaskPositive rk s
  | .maskNegative rk => Sys2Proof.Machine.execMaskNegative rk s
  | .writeVM rj => Sys2Proof.Machine.execWriteVM rj s
  | .disableRangeHalt => Sys2Proof.Machine.execDisableRangeHalt s
  | .enableRangeHalt => Sys2Proof.Machine.execEnableRangeHalt s
  | .disableFloatHalt => Sys2Proof.Machine.execDisableFloatHalt s
  | .enableFloatHalt => Sys2Proof.Machine.execEnableFloatHalt s
  | .unspecified035 rk => Sys2Proof.Machine.execUnspecified035 rk s
  | .writeVL rk => Sys2Proof.Machine.execWriteVL rk s
  | .writeVLAlt rk => Sys2Proof.Machine.execWriteVLAlt rk s
  | .parcelPosA ri c => Sys2Proof.Machine.execParcelPosA ri c s
  | .parcelNegA ri c => Sys2Proof.Machine.execParcelNegA ri c s
  | .halfA ri c => Sys2Proof.Machine.execHalfA ri c s
  | .halfAAlt ri c => Sys2Proof.Machine.execHalfAAlt ri c s
  | .loadALocal ri c => Sys2Proof.Machine.execLoadALocal ri c s
  | .storeALocal rk c => Sys2Proof.Machine.execStoreALocal rk c s
  | .loadALocalReg ri rk => Sys2Proof.Machine.execLoadALocalReg ri rk s
  | .storeALocalReg rj rk => Sys2Proof.Machine.execStoreALocalReg rj rk s
  | .halfPosS ri c => Sys2Proof.Machine.execHalfPosS ri c s
  | .halfNegS ri c => Sys2Proof.Machine.execHalfNegS ri c s
  | .leftS ri c => Sys2Proof.Machine.execLeftS ri c s
  | .fullS ri c => Sys2Proof.Machine.execFullS ri c s
  | .loadSLocal ri c => Sys2Proof.Machine.execLoadSLocal ri c s
  | .storeSLocal rj c => Sys2Proof.Machine.execStoreSLocal rj c s
  | .loadSLocalReg ri rk => Sys2Proof.Machine.execLoadSLocalReg ri rk s
  | .storeSLocalReg ri rk => Sys2Proof.Machine.execStoreSLocalReg ri rk s
  | .loadSIndexed ri rj rk => Sys2Proof.Machine.execLoadSIndexed ri rj rk s
  | .storeSIndexed ri rj rk => Sys2Proof.Machine.execStoreSIndexed ri rj rk s
  | .loadSReg ri rk => Sys2Proof.Machine.execLoadSReg ri rk s
  | .storeSReg ri rk => Sys2Proof.Machine.execStoreSReg ri rk s
  | .loadSDisp ri rk c => Sys2Proof.Machine.execLoadSDisp ri rk c s
  | .storeSDisp ri rk c => Sys2Proof.Machine.execStoreSDisp ri rk c s
  | .loadSDirect ri c => Sys2Proof.Machine.execLoadSDirect ri c s
  | .storeSDirect ri c => Sys2Proof.Machine.execStoreSDirect ri c s
  | .loadVStride ri rj rk => Sys2Proof.Machine.execLoadVStride ri rj rk s
  | .storeVStride ri rj rk => Sys2Proof.Machine.execStoreVStride ri rj rk s
  | .gatherV ri rj rk => Sys2Proof.Machine.execGatherV ri rj rk s
  | .scatterV ri rj rk => Sys2Proof.Machine.execScatterV ri rj rk s
  | .loadVLocal ri rk => Sys2Proof.Machine.execLoadVLocal ri rk s
  | .storeVLocal ri rk => Sys2Proof.Machine.execStoreVLocal ri rk s
  | .pass => Sys2Proof.Machine.execPass s
  | .passAlt => Sys2Proof.Machine.execPassAlt s
  | .andS ri rj rk => Sys2Proof.Machine.execAndS ri rj rk s
  | .andNotS ri rj rk => Sys2Proof.Machine.execAndNotS ri rj rk s
  | .xorS ri rj rk => Sys2Proof.Machine.execXorS ri rj rk s
  | .orS ri rj rk => Sys2Proof.Machine.execOrS ri rj rk s
  | .addS ri rj rk => Sys2Proof.Machine.execAddS ri rj rk s
  | .subS ri rj rk => Sys2Proof.Machine.execSubS ri rj rk s
  | .popcountS ri rj => Sys2Proof.Machine.execPopcountS ri rj s
  | .parityS ri rj => Sys2Proof.Machine.execParityS ri rj s
  | .unspecified106Low ri rj rk => Sys2Proof.Machine.execUnspecified106Low ri rj rk s
  | .unspecified106High ri rj rk => Sys2Proof.Machine.execUnspecified106High ri rj rk s
  | .leadingZerosS ri rj => Sys2Proof.Machine.execLeadingZerosS ri rj s
  | .shiftLeftS ri jk => Sys2Proof.Machine.execShiftLeftS ri jk s
  | .shiftRightS ri jk => Sys2Proof.Machine.execShiftRightS ri jk s
  | .doubleShiftLeftS ri rj rk => Sys2Proof.Machine.execDoubleShiftLeftS ri rj rk s
  | .doubleShiftRightS ri rj rk => Sys2Proof.Machine.execDoubleShiftRightS ri rj rk s
  | .readVM ri => Sys2Proof.Machine.execReadVM ri s
  | .readRT ri => Sys2Proof.Machine.execReadRT ri s
  | .shortPosS ri jk => Sys2Proof.Machine.execShortPosS ri jk s
  | .shortNegS ri jk => Sys2Proof.Machine.execShortNegS ri jk s
  | .faddS ri rj rk => Sys2Proof.Machine.execFaddS ri rj rk s
  | .fsubS ri rj rk => Sys2Proof.Machine.execFsubS ri rj rk s
  | .fixS ri rk => Sys2Proof.Machine.execFixS ri rk s
  | .floatS ri rk => Sys2Proof.Machine.execFloatS ri rk s
  | .fmulS ri rj rk => Sys2Proof.Machine.execFmulS ri rj rk s
  | .fmulSAlt ri rj rk => Sys2Proof.Machine.execFmulSAlt ri rj rk s
  | .recipIterS ri rj rk => Sys2Proof.Machine.execRecipIterS ri rj rk s
  | .sqrtIterS ri rj rk => Sys2Proof.Machine.execSqrtIterS ri rj rk s
  | .moveAToS ri rk => Sys2Proof.Machine.execMoveAToS ri rk s
  | .moveAToSSigned ri rk => Sys2Proof.Machine.execMoveAToSSigned ri rk s
  | .recipS ri rj => Sys2Proof.Machine.execRecipS ri rj s
  | .rsqrtS ri rj => Sys2Proof.Machine.execRsqrtS ri rj s
  | .pass134 => Sys2Proof.Machine.execPass134 s
  | .pass135 => Sys2Proof.Machine.execPass135 s
  | .pass136 => Sys2Proof.Machine.execPass136 s
  | .pass137 => Sys2Proof.Machine.execPass137 s
  | .andSV ri rj rk => Sys2Proof.Machine.execAndSV ri rj rk s
  | .andVV ri rj rk => Sys2Proof.Machine.execAndVV ri rj rk s
  | .xorSV ri rj rk => Sys2Proof.Machine.execXorSV ri rj rk s
  | .xorVV ri rj rk => Sys2Proof.Machine.execXorVV ri rj rk s
  | .orSV ri rj rk => Sys2Proof.Machine.execOrSV ri rj rk s
  | .orVV ri rj rk => Sys2Proof.Machine.execOrVV ri rj rk s
  | .mergeSV ri rj rk => Sys2Proof.Machine.execMergeSV ri rj rk s
  | .mergeVV ri rj rk => Sys2Proof.Machine.execMergeVV ri rj rk s
  | .shiftLeftV ri rj rk => Sys2Proof.Machine.execShiftLeftV ri rj rk s
  | .shiftRightV ri rj rk => Sys2Proof.Machine.execShiftRightV ri rj rk s
  | .doubleShiftLeftV ri rj rk => Sys2Proof.Machine.execDoubleShiftLeftV ri rj rk s
  | .doubleShiftRightV ri rj rk => Sys2Proof.Machine.execDoubleShiftRightV ri rj rk s
  | .fmulSV ri rj rk => Sys2Proof.Machine.execFmulSV ri rj rk s
  | .fmulVV ri rj rk => Sys2Proof.Machine.execFmulVV ri rj rk s
  | .recipIterVV ri rj rk => Sys2Proof.Machine.execRecipIterVV ri rj rk s
  | .sqrtIterVV ri rj rk => Sys2Proof.Machine.execSqrtIterVV ri rj rk s
  | .addSV ri rj rk => Sys2Proof.Machine.execAddSV ri rj rk s
  | .addVV ri rj rk => Sys2Proof.Machine.execAddVV ri rj rk s
  | .subSV ri rj rk => Sys2Proof.Machine.execSubSV ri rj rk s
  | .subVV ri rj rk => Sys2Proof.Machine.execSubVV ri rj rk s
  | .popcountV ri rj => Sys2Proof.Machine.execPopcountV ri rj s
  | .parityV ri rj => Sys2Proof.Machine.execParityV ri rj s
  | .unspecified164Low ri rj rk => Sys2Proof.Machine.execUnspecified164Low ri rj rk s
  | .unspecified164High ri rj rk => Sys2Proof.Machine.execUnspecified164High ri rj rk s
  | .leadingZerosV ri rj => Sys2Proof.Machine.execLeadingZerosV ri rj s
  | .recipV ri rk => Sys2Proof.Machine.execRecipV ri rk s
  | .rsqrtV ri rk => Sys2Proof.Machine.execRsqrtV ri rk s
  | .faddSV ri rj rk => Sys2Proof.Machine.execFaddSV ri rj rk s
  | .faddVV ri rj rk => Sys2Proof.Machine.execFaddVV ri rj rk s
  | .fsubSV ri rj rk => Sys2Proof.Machine.execFsubSV ri rj rk s
  | .fsubVV ri rj rk => Sys2Proof.Machine.execFsubVV ri rj rk s
  | .fixV ri rk => Sys2Proof.Machine.execFixV ri rk s
  | .floatV ri rk => Sys2Proof.Machine.execFloatV ri rk s
  | .iota ri rj rk => Sys2Proof.Machine.execIota ri rj rk s
  | .iotaAlt ri rj rk => Sys2Proof.Machine.execIotaAlt ri rj rk s

end Sys2Proof.Machine
end

