-- ==== Sys2Proof/WellFormed.lean ====
section
/-!
DEFINITION. Which instructions have an encoding. Designators and constants fill their fields exactly, so only the
encodings the sources do not list carry a check: their k is one that no listed form uses (30_encoding.md R109).
-/

namespace Sys2Proof

/-- The instruction stands for some word of spec/opcode_table.json. -/
def Instr.wellFormed : Instr → Bool
  | .unspecified035 k => decide (4 ≤ k)
  | .unspecified106Low _ _ k => decide (k = 2 ∨ k = 3)
  | .unspecified106High _ _ k => decide (4 ≤ k)
  | .unspecified164Low _ _ k => decide (k = 2 ∨ k = 3)
  | .unspecified164High _ _ k => decide (4 ≤ k)
  | .exit _ => true
  | .exitAlt _ => true
  | .jumpReg _ _ => true
  | .jump _ => true
  | .jumpSemClear _ => true
  | .jumpSemSet _ => true
  | .setSem => true
  | .clearSem => true
  | .jumpAZero _ _ => true
  | .jumpANonzero _ _ => true
  | .jumpAPositive _ _ => true
  | .jumpANegative _ _ => true
  | .jumpSZero _ _ => true
  | .jumpSNonzero _ _ => true
  | .jumpSPositive _ _ => true
  | .jumpSNegative _ _ => true
  | .addA _ _ _ => true
  | .subA _ _ _ => true
  | .mulA _ _ _ => true
  | .mulAAlt _ _ _ => true
  | .moveSToA _ _ => true
  | .readVL _ => true
  | .shortPosA _ _ => true
  | .shortNegA _ _ => true
  | .maskZero _ => true
  | .maskNonzero _ => true
  | .maskPositive _ => true
  | .maskNegative _ => true
  | .writeVM _ => true
  | .disableRangeHalt => true
  | .enableRangeHalt => true
  | .disableFloatHalt => true
  | .enableFloatHalt => true
  | .writeVL _ => true
  | .writeVLAlt _ => true
  | .parcelPosA _ _ => true
  | .parcelNegA _ _ => true
  | .halfA _ _ => true
  | .halfAAlt _ _ => true
  | .loadALocal _ _ => true
  | .storeALocal _ _ => true
  | .loadALocalReg _ _ => true
  | .storeALocalReg _ _ => true
  | .halfPosS _ _ => true
  | .halfNegS _ _ => true
  | .leftS _ _ => true
  | .fullS _ _ => true
  | .loadSLocal _ _ => true
  | .storeSLocal _ _ => true
  | .loadSLocalReg _ _ => true
  | .storeSLocalReg _ _ => true
  | .loadSIndexed _ _ _ => true
  | .storeSIndexed _ _ _ => true
  | .loadSReg _ _ => true
  | .storeSReg _ _ => true
  | .loadSDisp _ _ _ => true
  | .storeSDisp _ _ _ => true
  | .loadSDirect _ _ => true
  | .storeSDirect _ _ => true
  | .loadVStride _ _ _ => true
  | .storeVStride _ _ _ => true
  | .gatherV _ _ _ => true
  | .scatterV _ _ _ => true
  | .loadVLocal _ _ => true
  | .storeVLocal _ _ => true
  | .pass => true
  | .passAlt => true
  | .andS _ _ _ => true
  | .andNotS _ _ _ => true
  | .xorS _ _ _ => true
  | .orS _ _ _ => true
  | .addS _ _ _ => true
  | .subS _ _ _ => true
  | .popcountS _ _ => true
  | .parityS _ _ => true
  | .leadingZerosS _ _ => true
  | .shiftLeftS _ _ => true
  | .shiftRightS _ _ => true
  | .doubleShiftLeftS _ _ _ => true
  | .doubleShiftRightS _ _ _ => true
  | .readVM _ => true
  | .readRT _ => true
  | .shortPosS _ _ => true
  | .shortNegS _ _ => true
  | .faddS _ _ _ => true
  | .fsubS _ _ _ => true
  | .fixS _ _ => true
  | .floatS _ _ => true
  | .fmulS _ _ _ => true
  | .fmulSAlt _ _ _ => true
  | .recipIterS _ _ _ => true
  | .sqrtIterS _ _ _ => true
  | .moveAToS _ _ => true
  | .moveAToSSigned _ _ => true
  | .recipS _ _ => true
  | .rsqrtS _ _ => true
  | .pass134 => true
  | .pass135 => true
  | .pass136 => true
  | .pass137 => true
  | .andSV _ _ _ => true
  | .andVV _ _ _ => true
  | .xorSV _ _ _ => true
  | .xorVV _ _ _ => true
  | .orSV _ _ _ => true
  | .orVV _ _ _ => true
  | .mergeSV _ _ _ => true
  | .mergeVV _ _ _ => true
  | .shiftLeftV _ _ _ => true
  | .shiftRightV _ _ _ => true
  | .doubleShiftLeftV _ _ _ => true
  | .doubleShiftRightV _ _ _ => true
  | .fmulSV _ _ _ => true
  | .fmulVV _ _ _ => true
  | .recipIterVV _ _ _ => true
  | .sqrtIterVV _ _ _ => true
  | .addSV _ _ _ => true
  | .addVV _ _ _ => true
  | .subSV _ _ _ => true
  | .subVV _ _ _ => true
  | .popcountV _ _ => true
  | .parityV _ _ => true
  | .leadingZerosV _ _ => true
  | .recipV _ _ => true
  | .rsqrtV _ _ => true
  | .faddSV _ _ _ => true
  | .faddVV _ _ _ => true
  | .fsubSV _ _ _ => true
  | .fsubVV _ _ _ => true
  | .fixV _ _ => true
  | .floatV _ _ => true
  | .iota _ _ _ => true
  | .iotaAlt _ _ _ => true

end Sys2Proof
end

