-- ==== Sys2Proof/Decode.lean ====
section
/-!
DEFINITION. Decoding parcels into an instruction and encoding an instruction into parcels (30_encoding.md R100 to R110).
-/

namespace Sys2Proof

/-! ## Fields of the first parcel (R101) -/

/-- Bits 15..9, the operation code f. -/
def opcodeOf (p : Parcel) : BitVec 7 := p.extractLsb' 9 7
/-- Bits 8..6. -/
def fieldI (p : Parcel) : Reg := p.extractLsb' 6 3
/-- Bits 5..3. -/
def fieldJ (p : Parcel) : Reg := p.extractLsb' 3 3
/-- Bits 2..0. -/
def fieldK (p : Parcel) : Reg := p.extractLsb' 0 3
/-- Bits 5..0. -/
def fieldJK (p : Parcel) : Short := p.extractLsb' 0 6

/-- A first parcel from its four fields (R101). -/
def firstParcel (f : BitVec 7) (i j k : Reg) : Parcel := f ++ i ++ j ++ k
/-- A first parcel whose low six bits are the field jk (R101). -/
def firstParcelJK (f : BitVec 7) (i : Reg) (jk : Short) : Parcel := f ++ i ++ jk

/-! ## Constants (R104): the high-order parcel first -/

/-- K32 = m1 : m2. -/
def constant32 (m1 m2 : Parcel) : Addr := m1 ++ m2
/-- K64 = m1 : m2 : m3 : m4. -/
def constant64 (m1 m2 m3 m4 : Parcel) : Word := m1 ++ m2 ++ m3 ++ m4
/-- The parcels m1, m2 of a 32-bit constant. -/
def parcels32 (c : Addr) : List Parcel := [c.extractLsb' 16 16, c.extractLsb' 0 16]
/-- The parcels m1 to m4 of a 64-bit constant. -/
def parcels64 (c : Word) : List Parcel :=
  [c.extractLsb' 48 16, c.extractLsb' 32 16, c.extractLsb' 16 16, c.extractLsb' 0 16]

/-- How many parcels an instruction has, from its operation code alone (R103). -/
def parcelCount (p : Parcel) : Nat :=
  match (opcodeOf p).toNat with
  | 0o003 | 0o004 | 0o005 | 0o010 | 0o011 | 0o012 | 0o013 | 0o014 | 0o015 | 0o016 | 0o017 => 3
  | 0o040 | 0o041 | 0o044 | 0o045 | 0o054 | 0o055 => 2
  | 0o042 | 0o043 | 0o050 | 0o051 | 0o052 | 0o064 | 0o065 | 0o066 | 0o067 => 3
  | 0o053 => 5
  | _ => 1

/-! ## Decoding -/

/-- 035 takes its operation from k (R109, R216 to R220). -/
def decode035 (k : Reg) : Instr :=
  if k = 0 then .disableRangeHalt
  else if k = 1 then .enableRangeHalt
  else if k = 2 then .disableFloatHalt
  else if k = 3 then .enableFloatHalt
  else .unspecified035 k

/-- 106 takes its operation from k (R109, R297 to R299). -/
def decode106 (i j k : Reg) : Instr :=
  if k = 0 then .popcountS i j
  else if k = 1 then .parityS i j
  else if k = 2 ∨ k = 3 then .unspecified106Low i j k
  else .unspecified106High i j k

/-- 164 takes its operation from k (R109, R389 to R391). -/
def decode164 (i j k : Reg) : Instr :=
  if k = 0 then .popcountV i j
  else if k = 1 then .parityV i j
  else if k = 2 ∨ k = 3 then .unspecified164Low i j k
  else .unspecified164High i j k

/-- The instruction with first parcel `p` and constant parcels `m1` to `m4` (those past its length are not used):
f selects it, with k for 035, 106 and 164 (R105, R107, R110). -/
def decodeParcels (p m1 m2 m3 m4 : Parcel) : Instr :=
  let i := fieldI p
  let j := fieldJ p
  let k := fieldK p
  let jk := fieldJK p
  let c := constant32 m1 m2
  match (opcodeOf p).toNat with
  | 0o000 => .exit jk
  | 0o001 => .exitAlt jk
  | 0o002 => .jumpReg i k
  | 0o003 => .jump c
  | 0o004 => .jumpSemClear c
  | 0o005 => .jumpSemSet c
  | 0o006 => .setSem
  | 0o007 => .clearSem
  | 0o010 => .jumpAZero k c
  | 0o011 => .jumpANonzero k c
  | 0o012 => .jumpAPositive k c
  | 0o013 => .jumpANegative k c
  | 0o014 => .jumpSZero j c
  | 0o015 => .jumpSNonzero j c
  | 0o016 => .jumpSPositive j c
  | 0o017 => .jumpSNegative j c
  | 0o020 => .addA i j k
  | 0o021 => .subA i j k
  | 0o022 => .mulA i j k
  | 0o023 => .mulAAlt i j k
  | 0o024 => .moveSToA i j
  | 0o025 => .readVL i
  | 0o026 => .shortPosA i jk
  | 0o027 => .shortNegA i jk
  | 0o030 => .maskZero k
  | 0o031 => .maskNonzero k
  | 0o032 => .maskPositive k
  | 0o033 => .maskNegative k
  | 0o034 => .writeVM j
  | 0o035 => decode035 k
  | 0o036 => .writeVL k
  | 0o037 => .writeVLAlt k
  | 0o040 => .parcelPosA i m1
  | 0o041 => .parcelNegA i m1
  | 0o042 => .halfA i c
  | 0o043 => .halfAAlt i c
  | 0o044 => .loadALocal i m1
  | 0o045 => .storeALocal k m1
  | 0o046 => .loadALocalReg i k
  | 0o047 => .storeALocalReg j k
  | 0o050 => .halfPosS i c
  | 0o051 => .halfNegS i c
  | 0o052 => .leftS i c
  | 0o053 => .fullS i (constant64 m1 m2 m3 m4)
  | 0o054 => .loadSLocal i m1
  | 0o055 => .storeSLocal j m1
  | 0o056 => .loadSLocalReg i k
  | 0o057 => .storeSLocalReg i k
  | 0o060 => .loadSIndexed i j k
  | 0o061 => .storeSIndexed i j k
  | 0o062 => .loadSReg i k
  | 0o063 => .storeSReg i k
  | 0o064 => .loadSDisp i k c
  | 0o065 => .storeSDisp i k c
  | 0o066 => .loadSDirect i c
  | 0o067 => .storeSDirect i c
  | 0o070 => .loadVStride i j k
  | 0o071 => .storeVStride i j k
  | 0o072 => .gatherV i j k
  | 0o073 => .scatterV i j k
  | 0o074 => .loadVLocal i k
  | 0o075 => .storeVLocal i k
  | 0o076 => .pass
  | 0o077 => .passAlt
  | 0o100 => .andS i j k
  | 0o101 => .andNotS i j k
  | 0o102 => .xorS i j k
  | 0o103 => .orS i j k
  | 0o104 => .addS i j k
  | 0o105 => .subS i j k
  | 0o106 => decode106 i j k
  | 0o107 => .leadingZerosS i j
  | 0o110 => .shiftLeftS i jk
  | 0o111 => .shiftRightS i jk
  | 0o112 => .doubleShiftLeftS i j k
  | 0o113 => .doubleShiftRightS i j k
  | 0o114 => .readVM i
  | 0o115 => .readRT i
  | 0o116 => .shortPosS i jk
  | 0o117 => .shortNegS i jk
  | 0o120 => .faddS i j k
  | 0o121 => .fsubS i j k
  | 0o122 => .fixS i k
  | 0o123 => .floatS i k
  | 0o124 => .fmulS i j k
  | 0o125 => .fmulSAlt i j k
  | 0o126 => .recipIterS i j k
  | 0o127 => .sqrtIterS i j k
  | 0o130 => .moveAToS i k
  | 0o131 => .moveAToSSigned i k
  | 0o132 => .recipS i j
  | 0o133 => .rsqrtS i j
  | 0o134 => .pass134
  | 0o135 => .pass135
  | 0o136 => .pass136
  | 0o137 => .pass137
  | 0o140 => .andSV i j k
  | 0o141 => .andVV i j k
  | 0o142 => .xorSV i j k
  | 0o143 => .xorVV i j k
  | 0o144 => .orSV i j k
  | 0o145 => .orVV i j k
  | 0o146 => .mergeSV i j k
  | 0o147 => .mergeVV i j k
  | 0o150 => .shiftLeftV i j k
  | 0o151 => .shiftRightV i j k
  | 0o152 => .doubleShiftLeftV i j k
  | 0o153 => .doubleShiftRightV i j k
  | 0o154 => .fmulSV i j k
  | 0o155 => .fmulVV i j k
  | 0o156 => .recipIterVV i j k
  | 0o157 => .sqrtIterVV i j k
  | 0o160 => .addSV i j k
  | 0o161 => .addVV i j k
  | 0o162 => .subSV i j k
  | 0o163 => .subVV i j k
  | 0o164 => decode164 i j k
  | 0o165 => .leadingZerosV i j
  | 0o166 => .recipV i k
  | 0o167 => .rsqrtV i k
  | 0o170 => .faddSV i j k
  | 0o171 => .faddVV i j k
  | 0o172 => .fsubSV i j k
  | 0o173 => .fsubVV i j k
  | 0o174 => .fixV i k
  | 0o175 => .floatV i k
  | 0o176 => .iota i j k
  | _ => .iotaAlt i j k

/-- Why parcels do not decode. All 128 operation codes are assigned (R107), so only missing parcels are refused. -/
inductive DecodeError where
  /-- There is no first parcel. -/
  | noParcel
  /-- The instruction has `need` parcels and only `found` are there. -/
  | truncated (need found : Nat)
  deriving DecidableEq, Repr

/-- Decodes the instruction at the head of a list of parcels and answers the parcels after it. -/
def decode : List Parcel → Except DecodeError (Instr × List Parcel)
  | [] => .error .noParcel
  | p :: rest =>
    if rest.length + 1 < parcelCount p then .error (.truncated (parcelCount p) (rest.length + 1))
    else .ok (decodeParcels p (rest.getD 0 0) (rest.getD 1 0) (rest.getD 2 0) (rest.getD 3 0),
              rest.drop (parcelCount p - 1))

/-- Bytes taken in pairs, the high-order byte of a parcel first; an odd last byte is left out. -/
def parcelsOfBytes : List Byte → List Parcel
  | hi :: lo :: rest => (hi ++ lo) :: parcelsOfBytes rest
  | _ => []

/-- The two bytes of a parcel, high-order byte first. -/
def bytesOfParcel (p : Parcel) : List Byte := [p.extractLsb' 8 8, p.extractLsb' 0 8]

/-- Decodes the instruction at the head of a list of bytes and answers the parcels after it. -/
def decodeBytes (bytes : List Byte) : Except DecodeError (Instr × List Parcel) := decode (parcelsOfBytes bytes)

/-- Parcel `n` of an instruction whose bits are `w`: bit 0 of `w` is the least significant bit of the first parcel, and
the bits at and above `nbits` are 0. -/
def tableParcel (nbits w n : Nat) : Parcel := BitVec.ofNat 16 ((w % 2 ^ nbits) / 2 ^ (16 * n))

/-- The instruction the decoder reads from an instruction whose bits are `w`, laid out in memory order. -/
def decodeTableWord (nbits w : Nat) : Option Instr :=
  match decodeBytes (bytesOfParcel (tableParcel nbits w 0) ++ bytesOfParcel (tableParcel nbits w 1)
      ++ bytesOfParcel (tableParcel nbits w 2) ++ bytesOfParcel (tableParcel nbits w 3)
      ++ bytesOfParcel (tableParcel nbits w 4)) with
  | .ok (i, _) => some i
  | .error _ => none

/-! ## Encoding: ignored fields are zero, as CAL writes them (R105) -/

/-- The parcels of an instruction (R101 to R104, R107). -/
def encode : Instr → List Parcel
  | .exit jk => [firstParcelJK 0o000 0 jk]
  | .exitAlt jk => [firstParcelJK 0o001 0 jk]
  | .jumpReg i k => [firstParcel 0o002 i 0 k]
  | .jump c => firstParcel 0o003 0 0 0 :: parcels32 c
  | .jumpSemClear c => firstParcel 0o004 0 0 0 :: parcels32 c
  | .jumpSemSet c => firstParcel 0o005 0 0 0 :: parcels32 c
  | .setSem => [firstParcel 0o006 0 0 0]
  | .clearSem => [firstParcel 0o007 0 0 0]
  | .jumpAZero k c => firstParcel 0o010 0 0 k :: parcels32 c
  | .jumpANonzero k c => firstParcel 0o011 0 0 k :: parcels32 c
  | .jumpAPositive k c => firstParcel 0o012 0 0 k :: parcels32 c
  | .jumpANegative k c => firstParcel 0o013 0 0 k :: parcels32 c
  | .jumpSZero j c => firstParcel 0o014 0 j 0 :: parcels32 c
  | .jumpSNonzero j c => firstParcel 0o015 0 j 0 :: parcels32 c
  | .jumpSPositive j c => firstParcel 0o016 0 j 0 :: parcels32 c
  | .jumpSNegative j c => firstParcel 0o017 0 j 0 :: parcels32 c
  | .addA i j k => [firstParcel 0o020 i j k]
  | .subA i j k => [firstParcel 0o021 i j k]
  | .mulA i j k => [firstParcel 0o022 i j k]
  | .mulAAlt i j k => [firstParcel 0o023 i j k]
  | .moveSToA i j => [firstParcel 0o024 i j 0]
  | .readVL i => [firstParcel 0o025 i 0 0]
  | .shortPosA i jk => [firstParcelJK 0o026 i jk]
  | .shortNegA i jk => [firstParcelJK 0o027 i jk]
  | .maskZero k => [firstParcel 0o030 0 0 k]
  | .maskNonzero k => [firstParcel 0o031 0 0 k]
  | .maskPositive k => [firstParcel 0o032 0 0 k]
  | .maskNegative k => [firstParcel 0o033 0 0 k]
  | .writeVM j => [firstParcel 0o034 0 j 0]
  | .disableRangeHalt => [firstParcel 0o035 0 0 0]
  | .enableRangeHalt => [firstParcel 0o035 0 0 1]
  | .disableFloatHalt => [firstParcel 0o035 0 0 2]
  | .enableFloatHalt => [firstParcel 0o035 0 0 3]
  | .unspecified035 k => [firstParcel 0o035 0 0 k]
  | .writeVL k => [firstParcel 0o036 0 0 k]
  | .writeVLAlt k => [firstParcel 0o037 0 0 k]
  | .parcelPosA i c => [firstParcel 0o040 i 0 0, c]
  | .parcelNegA i c => [firstParcel 0o041 i 0 0, c]
  | .halfA i c => firstParcel 0o042 i 0 0 :: parcels32 c
  | .halfAAlt i c => firstParcel 0o043 i 0 0 :: parcels32 c
  | .loadALocal i c => [firstParcel 0o044 i 0 0, c]
  | .storeALocal k c => [firstParcel 0o045 0 0 k, c]
  | .loadALocalReg i k => [firstParcel 0o046 i 0 k]
  | .storeALocalReg j k => [firstParcel 0o047 0 j k]
  | .halfPosS i c => firstParcel 0o050 i 0 0 :: parcels32 c
  | .halfNegS i c => firstParcel 0o051 i 0 0 :: parcels32 c
  | .leftS i c => firstParcel 0o052 i 0 0 :: parcels32 c
  | .fullS i c => firstParcel 0o053 i 0 0 :: parcels64 c
  | .loadSLocal i c => [firstParcel 0o054 i 0 0, c]
  | .storeSLocal j c => [firstParcel 0o055 0 j 0, c]
  | .loadSLocalReg i k => [firstParcel 0o056 i 0 k]
  | .storeSLocalReg i k => [firstParcel 0o057 i 0 k]
  | .loadSIndexed i j k => [firstParcel 0o060 i j k]
  | .storeSIndexed i j k => [firstParcel 0o061 i j k]
  | .loadSReg i k => [firstParcel 0o062 i 0 k]
  | .storeSReg i k => [firstParcel 0o063 i 0 k]
  | .loadSDisp i k c => firstParcel 0o064 i 0 k :: parcels32 c
  | .storeSDisp i k c => firstParcel 0o065 i 0 k :: parcels32 c
  | .loadSDirect i c => firstParcel 0o066 i 0 0 :: parcels32 c
  | .storeSDirect i c => firstParcel 0o067 i 0 0 :: parcels32 c
  | .loadVStride i j k => [firstParcel 0o070 i j k]
  | .storeVStride i j k => [firstParcel 0o071 i j k]
  | .gatherV i j k => [firstParcel 0o072 i j k]
  | .scatterV i j k => [firstParcel 0o073 i j k]
  | .loadVLocal i k => [firstParcel 0o074 i 0 k]
  | .storeVLocal i k => [firstParcel 0o075 i 0 k]
  | .pass => [firstParcel 0o076 0 0 0]
  | .passAlt => [firstParcel 0o077 0 0 0]
  | .andS i j k => [firstParcel 0o100 i j k]
  | .andNotS i j k => [firstParcel 0o101 i j k]
  | .xorS i j k => [firstParcel 0o102 i j k]
  | .orS i j k => [firstParcel 0o103 i j k]
  | .addS i j k => [firstParcel 0o104 i j k]
  | .subS i j k => [firstParcel 0o105 i j k]
  | .popcountS i j => [firstParcel 0o106 i j 0]
  | .parityS i j => [firstParcel 0o106 i j 1]
  | .unspecified106Low i j k => [firstParcel 0o106 i j k]
  | .unspecified106High i j k => [firstParcel 0o106 i j k]
  | .leadingZerosS i j => [firstParcel 0o107 i j 0]
  | .shiftLeftS i jk => [firstParcelJK 0o110 i jk]
  | .shiftRightS i jk => [firstParcelJK 0o111 i jk]
  | .doubleShiftLeftS i j k => [firstParcel 0o112 i j k]
  | .doubleShiftRightS i j k => [firstParcel 0o113 i j k]
  | .readVM i => [firstParcel 0o114 i 0 0]
  | .readRT i => [firstParcel 0o115 i 0 0]
  | .shortPosS i jk => [firstParcelJK 0o116 i jk]
  | .shortNegS i jk => [firstParcelJK 0o117 i jk]
  | .faddS i j k => [firstParcel 0o120 i j k]
  | .fsubS i j k => [firstParcel 0o121 i j k]
  | .fixS i k => [firstParcel 0o122 i 0 k]
  | .floatS i k => [firstParcel 0o123 i 0 k]
  | .fmulS i j k => [firstParcel 0o124 i j k]
  | .fmulSAlt i j k => [firstParcel 0o125 i j k]
  | .recipIterS i j k => [firstParcel 0o126 i j k]
  | .sqrtIterS i j k => [firstParcel 0o127 i j k]
  | .moveAToS i k => [firstParcel 0o130 i 0 k]
  | .moveAToSSigned i k => [firstParcel 0o131 i 0 k]
  | .recipS i j => [firstParcel 0o132 i j 0]
  | .rsqrtS i j => [firstParcel 0o133 i j 0]
  | .pass134 => [firstParcel 0o134 0 0 0]
  | .pass135 => [firstParcel 0o135 0 0 0]
  | .pass136 => [firstParcel 0o136 0 0 0]
  | .pass137 => [firstParcel 0o137 0 0 0]
  | .andSV i j k => [firstParcel 0o140 i j k]
  | .andVV i j k => [firstParcel 0o141 i j k]
  | .xorSV i j k => [firstParcel 0o142 i j k]
  | .xorVV i j k => [firstParcel 0o143 i j k]
  | .orSV i j k => [firstParcel 0o144 i j k]
  | .orVV i j k => [firstParcel 0o145 i j k]
  | .mergeSV i j k => [firstParcel 0o146 i j k]
  | .mergeVV i j k => [firstParcel 0o147 i j k]
  | .shiftLeftV i j k => [firstParcel 0o150 i j k]
  | .shiftRightV i j k => [firstParcel 0o151 i j k]
  | .doubleShiftLeftV i j k => [firstParcel 0o152 i j k]
  | .doubleShiftRightV i j k => [firstParcel 0o153 i j k]
  | .fmulSV i j k => [firstParcel 0o154 i j k]
  | .fmulVV i j k => [firstParcel 0o155 i j k]
  | .recipIterVV i j k => [firstParcel 0o156 i j k]
  | .sqrtIterVV i j k => [firstParcel 0o157 i j k]
  | .addSV i j k => [firstParcel 0o160 i j k]
  | .addVV i j k => [firstParcel 0o161 i j k]
  | .subSV i j k => [firstParcel 0o162 i j k]
  | .subVV i j k => [firstParcel 0o163 i j k]
  | .popcountV i j => [firstParcel 0o164 i j 0]
  | .parityV i j => [firstParcel 0o164 i j 1]
  | .unspecified164Low i j k => [firstParcel 0o164 i j k]
  | .unspecified164High i j k => [firstParcel 0o164 i j k]
  | .leadingZerosV i j => [firstParcel 0o165 i j 0]
  | .recipV i k => [firstParcel 0o166 i 0 k]
  | .rsqrtV i k => [firstParcel 0o167 i 0 k]
  | .faddSV i j k => [firstParcel 0o170 i j k]
  | .faddVV i j k => [firstParcel 0o171 i j k]
  | .fsubSV i j k => [firstParcel 0o172 i j k]
  | .fsubVV i j k => [firstParcel 0o173 i j k]
  | .fixV i k => [firstParcel 0o174 i 0 k]
  | .floatV i k => [firstParcel 0o175 i 0 k]
  | .iota i j k => [firstParcel 0o176 i j k]
  | .iotaAlt i j k => [firstParcel 0o177 i j k]

/-- How many parcels the instruction has, by its form (R103, R106). -/
def Instr.parcels : Instr → Nat
  | .exit _ => 1
  | .exitAlt _ => 1
  | .jumpReg _ _ => 1
  | .jump _ => 3
  | .jumpSemClear _ => 3
  | .jumpSemSet _ => 3
  | .setSem => 1
  | .clearSem => 1
  | .jumpAZero _ _ => 3
  | .jumpANonzero _ _ => 3
  | .jumpAPositive _ _ => 3
  | .jumpANegative _ _ => 3
  | .jumpSZero _ _ => 3
  | .jumpSNonzero _ _ => 3
  | .jumpSPositive _ _ => 3
  | .jumpSNegative _ _ => 3
  | .addA _ _ _ => 1
  | .subA _ _ _ => 1
  | .mulA _ _ _ => 1
  | .mulAAlt _ _ _ => 1
  | .moveSToA _ _ => 1
  | .readVL _ => 1
  | .shortPosA _ _ => 1
  | .shortNegA _ _ => 1
  | .maskZero _ => 1
  | .maskNonzero _ => 1
  | .maskPositive _ => 1
  | .maskNegative _ => 1
  | .writeVM _ => 1
  | .disableRangeHalt => 1
  | .enableRangeHalt => 1
  | .disableFloatHalt => 1
  | .enableFloatHalt => 1
  | .unspecified035 _ => 1
  | .writeVL _ => 1
  | .writeVLAlt _ => 1
  | .parcelPosA _ _ => 2
  | .parcelNegA _ _ => 2
  | .halfA _ _ => 3
  | .halfAAlt _ _ => 3
  | .loadALocal _ _ => 2
  | .storeALocal _ _ => 2
  | .loadALocalReg _ _ => 1
  | .storeALocalReg _ _ => 1
  | .halfPosS _ _ => 3
  | .halfNegS _ _ => 3
  | .leftS _ _ => 3
  | .fullS _ _ => 5
  | .loadSLocal _ _ => 2
  | .storeSLocal _ _ => 2
  | .loadSLocalReg _ _ => 1
  | .storeSLocalReg _ _ => 1
  | .loadSIndexed _ _ _ => 1
  | .storeSIndexed _ _ _ => 1
  | .loadSReg _ _ => 1
  | .storeSReg _ _ => 1
  | .loadSDisp _ _ _ => 3
  | .storeSDisp _ _ _ => 3
  | .loadSDirect _ _ => 3
  | .storeSDirect _ _ => 3
  | .loadVStride _ _ _ => 1
  | .storeVStride _ _ _ => 1
  | .gatherV _ _ _ => 1
  | .scatterV _ _ _ => 1
  | .loadVLocal _ _ => 1
  | .storeVLocal _ _ => 1
  | .pass => 1
  | .passAlt => 1
  | .andS _ _ _ => 1
  | .andNotS _ _ _ => 1
  | .xorS _ _ _ => 1
  | .orS _ _ _ => 1
  | .addS _ _ _ => 1
  | .subS _ _ _ => 1
  | .popcountS _ _ => 1
  | .parityS _ _ => 1
  | .unspecified106Low _ _ _ => 1
  | .unspecified106High _ _ _ => 1
  | .leadingZerosS _ _ => 1
  | .shiftLeftS _ _ => 1
  | .shiftRightS _ _ => 1
  | .doubleShiftLeftS _ _ _ => 1
  | .doubleShiftRightS _ _ _ => 1
  | .readVM _ => 1
  | .readRT _ => 1
  | .shortPosS _ _ => 1
  | .shortNegS _ _ => 1
  | .faddS _ _ _ => 1
  | .fsubS _ _ _ => 1
  | .fixS _ _ => 1
  | .floatS _ _ => 1
  | .fmulS _ _ _ => 1
  | .fmulSAlt _ _ _ => 1
  | .recipIterS _ _ _ => 1
  | .sqrtIterS _ _ _ => 1
  | .moveAToS _ _ => 1
  | .moveAToSSigned _ _ => 1
  | .recipS _ _ => 1
  | .rsqrtS _ _ => 1
  | .pass134 => 1
  | .pass135 => 1
  | .pass136 => 1
  | .pass137 => 1
  | .andSV _ _ _ => 1
  | .andVV _ _ _ => 1
  | .xorSV _ _ _ => 1
  | .xorVV _ _ _ => 1
  | .orSV _ _ _ => 1
  | .orVV _ _ _ => 1
  | .mergeSV _ _ _ => 1
  | .mergeVV _ _ _ => 1
  | .shiftLeftV _ _ _ => 1
  | .shiftRightV _ _ _ => 1
  | .doubleShiftLeftV _ _ _ => 1
  | .doubleShiftRightV _ _ _ => 1
  | .fmulSV _ _ _ => 1
  | .fmulVV _ _ _ => 1
  | .recipIterVV _ _ _ => 1
  | .sqrtIterVV _ _ _ => 1
  | .addSV _ _ _ => 1
  | .addVV _ _ _ => 1
  | .subSV _ _ _ => 1
  | .subVV _ _ _ => 1
  | .popcountV _ _ => 1
  | .parityV _ _ => 1
  | .unspecified164Low _ _ _ => 1
  | .unspecified164High _ _ _ => 1
  | .leadingZerosV _ _ => 1
  | .recipV _ _ => 1
  | .rsqrtV _ _ => 1
  | .faddSV _ _ _ => 1
  | .faddVV _ _ _ => 1
  | .fsubSV _ _ _ => 1
  | .fsubVV _ _ _ => 1
  | .fixV _ _ => 1
  | .floatV _ _ => 1
  | .iota _ _ _ => 1
  | .iotaAlt _ _ _ => 1

/-- The bits of a first parcel that select or parametrise the instruction; the hardware ignores the others (R105). -/
def usedBits (p : Parcel) : Parcel :=
  match (opcodeOf p).toNat with
  | 0o000 | 0o001 | 0o047 => 0xFE3F
  | 0o002 | 0o046 | 0o056 | 0o057 | 0o062 | 0o063 | 0o064 | 0o065 | 0o074 | 0o075 | 0o122 | 0o123 | 0o130 | 0o131
   | 0o166 | 0o167 | 0o174 | 0o175 => 0xFFC7
  | 0o003 | 0o004 | 0o005 | 0o006 | 0o007 | 0o076 | 0o077 | 0o134 | 0o135 | 0o136 | 0o137 => 0xFE00
  | 0o010 | 0o011 | 0o012 | 0o013 | 0o030 | 0o031 | 0o032 | 0o033 | 0o035 | 0o036 | 0o037 | 0o045 => 0xFE07
  | 0o014 | 0o015 | 0o016 | 0o017 | 0o034 | 0o055 => 0xFE38
  | 0o024 | 0o107 | 0o132 | 0o133 | 0o165 => 0xFFF8
  | 0o025 | 0o040 | 0o041 | 0o042 | 0o043 | 0o044 | 0o050 | 0o051 | 0o052 | 0o053 | 0o054 | 0o066 | 0o067 | 0o114
   | 0o115 => 0xFFC0
  | _ => 0xFFFF

end Sys2Proof
end

