-- ==== Sys2Proof/Machine/Fetch.lean ====
section
/-!
DEFINITION. Fetching the parcels of an instruction (20_memory.md R66, R72, R79), the instruction buffer (10_state.md
R52), and placing parcels in Common Memory.
-/

namespace Sys2Proof.Machine

/-- The low bit of parcel `q` in its word: parcel 0 is bits 63..48 (R66, D1). DEDUCED, unsafe (entry 8). -/
def parcelLow (q : Nat) : Nat := if Config.parcelZeroHigh then 48 - 16 * q else 16 * q

/-- The number of the parcel with address `p` within its word (R25). -/
def parcelIndex (p : Addr) : Nat := (p.extractLsb' 0 2).toNat

/-- The absolute address of the word holding the parcel with address `p` (R26, D2; entry 9). -/
def State.parcelWord (s : State) (p : Addr) : Addr := s.absolute (p >>> 2)

/-- `FetchParcel(p)` (R72): model fault outside the field, and for a word written in this computation period (R79) or
never written (R56). -/
def State.fetchParcel (s : State) (p : Addr) : Except Fault Parcel :=
  if !s.inField (s.parcelWord p) then .error .fetchRange
  else if Config.cmWords ≤ (s.parcelWord p).toNat then .error .commonAddress
  else if s.written.contains (s.parcelWord p).toNat then .error .staleInstruction
  else
    match Memory.word? s.cm (s.parcelWord p).toNat with
    | some w => .ok (w.extractLsb' (parcelLow (parcelIndex p)) 16)
    | none => .error .unwrittenFetch

/-- The `n` parcels from address `p` on. -/
def State.fetchParcels (s : State) : Nat → Addr → Except Fault (List Parcel)
  | 0, _ => .ok []
  | n + 1, p =>
    match s.fetchParcel p with
    | .error f => .error f
    | .ok x =>
      match s.fetchParcels n (p + 1) with
      | .error f => .error f
      | .ok l => .ok (x :: l)

/-- The parcels of the instruction at P: as many as its first parcel says (R27, R103). -/
def State.fetch (s : State) : Except Fault (List Parcel) :=
  match s.fetchParcel s.p with
  | .error f => .error f
  | .ok x => s.fetchParcels (parcelCount x) s.p

/-! ## The instruction buffer (R52): which 16-word blocks it holds, oldest first (entry 18) -/

/-- The 16-word block, counted from BA, that holds the parcel with address `p`. -/
def blockOf (p : Addr) : BitVec 26 := p.extractLsb' 6 26

/-- The blocks of the `n` parcels from `p` on come into the buffer. -/
def fillBlocks : Nat → Addr → List (BitVec 26) → List (BitVec 26)
  | 0, _, l => l
  | n + 1, p, l => fillBlocks n (p + 1) (fillBlock (blockOf p) l)

/-- The buffer after the instruction of `n` parcels at P has been taken from it. -/
def State.fill (s : State) (n : Nat) : State := { s with ibuf := fillBlocks n s.p s.ibuf }

/-! ## Placing parcels where they are fetched -/

/-- `w` with parcel `q` replaced. -/
def putParcel (w : Word) (q : Nat) (x : Parcel) : Word :=
  (w &&& ~~~((BitVec.allOnes 16).setWidth 64 <<< parcelLow q)) ||| (x.setWidth 64 <<< parcelLow q)

/-- Puts a parcel at parcel address `p`, as code loaded before the computation period: its word counts as not written
since. The other parcels of a word nothing has written become 0. -/
def State.placeParcel (s : State) (p : Addr) (x : Parcel) : State :=
  { s with
    cm := Memory.writeWord s.cm (s.parcelWord p).toNat
      (putParcel ((Memory.word? s.cm (s.parcelWord p).toNat).getD 0) (parcelIndex p) x)
    written := s.written.filter fun a => a != (s.parcelWord p).toNat }

/-- Puts parcels at consecutive parcel addresses from `p` on. -/
def State.placeParcels (s : State) : Addr → List Parcel → State
  | _, [] => s
  | p, x :: l => (s.placeParcel p x).placeParcels (p + 1) l

/-- The parcels at the five addresses from P on lie in the field. -/
def State.codeInField (s : State) : Bool :=
  s.inField (s.parcelWord s.p) && s.inField (s.parcelWord (s.p + 1)) && s.inField (s.parcelWord (s.p + 2))
    && s.inField (s.parcelWord (s.p + 3)) && s.inField (s.parcelWord (s.p + 4))

/-- The machine made ready to fetch: unchanged where it runs with a legal field holding the parcels at P, else running
from parcel 0 of a field that is all of Common Memory (entry 31). -/
def State.readyToFetch (s : State) : State :=
  if s.run = .running ∧ s.fieldOk = true ∧ s.codeInField = true then s
  else
    { s with
      run := .running
      st := { s.st with idleMode := false }
      ba := 0
      la := BitVec.ofNat 32 Config.cmWords
      p := 0 }

end Sys2Proof.Machine
end

