-- ==== Sys2Proof/Machine/Step.lean ====
section
/-!
DEFINITION. One step of the processor (00_scope.md R13, 10_state.md R27, R44), and an instruction placed where the next
step fetches it.
-/

namespace Sys2Proof.Machine

/-- In idle mode no instruction issues and only the clock counts (10_state.md R44, 60_exceptions.md R436 L3). In a
computation period the instruction at P is fetched, decoded and executed; a state that violates the field premise LP1
is refused (70_reset_and_hazards.md R462). -/
def step (s : State) : Host.Outcome State Fault Refusal :=
  match s.run with
  | .idle => .next s.tick
  | .running =>
    if s.fieldOk then
      match s.fetch with
      | .error f => .fault f
      | .ok l =>
        match decode l with
        | .error _ => .refused .undecodable
        | .ok (i, _) => exec i (s.tick.fill l.length)
    else .refused .launchPremise

/-- `s` with an instruction whose bits are `w` where the next step fetches (entry 31): five parcels from P on, those
past `nbits` zero. -/
def State.withFetchWord (s : State) (nbits w : Nat) : State :=
  s.readyToFetch.placeParcels s.readyToFetch.p
    [tableParcel nbits w 0, tableParcel nbits w 1, tableParcel nbits w 2, tableParcel nbits w 3, tableParcel nbits w 4]

end Sys2Proof.Machine
end

