-- ==== Sys2Proof/Machine/Foreground.lean ====
section
/-!
DEFINITION. The foreground system as the host of a Background Processor: it writes and reads the processor's state and
Common Memory, and starts a computation period (60_exceptions.md R431, R440; 70_reset_and_hazards.md R461 to R463). No
step performs these by itself. The model lets no clock period pass during one (entry 19).
-/

namespace Sys2Proof.Machine

/-! ## Writes -/

/-- A field of the status register is written. -/
def State.setStatus (s : State) (st : Status) : State := { s with st := st }

/-- `V[r][e] <- x`. -/
def State.setElem (s : State) (r : Reg) (e : BitVec 6) (x : Word) : State :=
  { s with vReg := s.vReg.set r.toNat ((s.vReg[r.toNat]).set e.toNat x) }

/-- What a write of the host to an idle processor does: the piece it names holds the new content (R431, R440). -/
def State.hostApply (s : State) : HostWrite → State
  | .p x => s.jumpTo x
  | .ba x => { s with ba := x }
  | .la x => { s with la := x }
  | .a r x => s.setA r x
  | .s r x => s.setS r x
  | .v r e x => s.setElem r e x
  | .vl x => s.setVL x
  | .vm x => s.setVM x
  | .localWord addr x => s.storeLocal addr.toNat x
  | .commonWord addr x => { s with cm := Memory.writeWord s.cm addr.toNat x }
  | .sem n x => { s with sem := s.sem.set n.val x }
  | .semPtr x => s.setStatus { s.st with semPtr := x }
  | .semBit x => s.setStatus { s.st with semBit := x }
  | .exitMode x => s.setStatus { s.st with exitMode := x }
  | .idleMode x => s.setStatus { s.st with idleMode := x }
  | .exitCode x => s.setStatus { s.st with exitCode := x }
  | .enRangeHalt x => s.setEnRangeHalt x
  | .enFloatHalt x => s.setEnFloatHalt x
  | .rangeErr x => s.setStatus { s.st with rangeErr := x }
  | .floatErr x => s.setStatus { s.st with floatErr := x }

/-- During a computation period the host writes Common Memory words only, and of those in the field only the words
`buffer` that the program's contract names (R440). Such a word counts as written in the period (R475). -/
def State.hostStore (s : State) (buffer : List Nat) (addr : Nat) (x : Word) : Result :=
  if s.inField (BitVec.ofNat 32 addr) && !buffer.contains addr then .refused .hostContract
  else .next (s.storeCommon addr x)

/-- A write of the host: any piece in idle mode (R440, first row); in a computation period one atomic transfer of a
word, or a refusal (R440, fourth row; entry 43). -/
def State.hostWrite (s : State) (buffer : List Nat) (w : HostWrite) : Result :=
  match s.run with
  | .idle => .next (s.hostApply w)
  | .running =>
    match w with
    | .commonWord addr x => s.hostStore buffer addr.toNat x
    | _ => .refused .notIdle

/-! ## Reads: without effect, at any time (R440) -/

/-- The status register. -/
def State.hostStatus (s : State) : Status := s.st
/-- The real-time clock. -/
def State.hostClock (s : State) : Word := s.rtc
/-- A word of Common Memory; `none` where nothing has written it. -/
def State.hostWord (s : State) (addr : BitVec 28) : Option Word := Memory.word? s.cm addr.toNat

/-! ## The start of a computation period (R461 to R463) -/

/-- Premises LP1 and LP2 of a launch (R462). -/
def Launch.ok (l : Launch) : Bool :=
  decide (l.ba0 ≤ l.la0) && decide (l.la0.toNat ≤ Config.cmWords)
    && decide (l.ba0.toNat + l.p0.toNat / 4 < l.la0.toNat)

/-- The Foreground Processor starts a computation period (R461): the launch parameters P, BA, LA, the Semaphore pointer
and the Semaphore bit are entered (LP1, LP2, LP4), the exit, idle and error flags cleared (LP5), the buffer is empty
(LP8), and the processor leaves idle mode. How many clock periods that takes is not stated: here none pass, DESIGN CHOICE,
and a step of the idle processor before or after it stands for any that do (entry 19). -/
def State.launch (s : State) (l : Launch) : Result :=
  if s.run = .running then .refused .notIdle
  else if l.ok then
    .next { s with
      p := l.p0
      ba := l.ba0
      la := l.la0
      st := { s.st with
        exitMode := false
        idleMode := false
        exitCode := 0
        semPtr := l.semPtr
        semBit := l.semBit
        rangeErr := false
        floatErr := false }
      run := .running
      written := []
      ibuf := [] }
  else .refused .launchPremise

end Sys2Proof.Machine
end

