-- ==== Sys2Proof/Machine/Run.lean ====
section
/-!
DEFINITION. A run: the steps of one computation period, and the ends it can have (60_exceptions.md R432).
-/

namespace Sys2Proof.Machine

/-- How a run stands after a number of steps (R432). -/
inductive RunEnd where
  /-- (a) The processor executed an exit: the state it left, exact (R421). -/
  | exited (s : State)
  /-- (b) The processor halted on an error: the two error bits, and nothing else (R427 (a)). -/
  | halted (rangeErr floatErr : Bool)
  /-- (c) A model fault: no state (R420). -/
  | faulted (f : Fault)
  /-- The state is outside the model (70_reset_and_hazards.md R462): no run. -/
  | refused (r : Refusal)
  /-- It has not ended yet. A run that is unfinished after any number of steps is (d) stuck. -/
  | unfinished (s : State)
  deriving DecidableEq, Repr

/-- The end that a processor gone idle shows: Exit Mode tells an exit from a halt (R425). -/
def State.idleEnd (s : State) : RunEnd :=
  if s.st.exitMode then .exited s else .halted s.st.rangeErr s.st.floatErr

/-- The run from a launched state, after at most `n` steps. -/
def runFor : Nat → State → RunEnd
  | 0, s =>
    match s.run with
    | .idle => s.idleEnd
    | .running => .unfinished s
  | n + 1, s =>
    match s.run with
    | .idle => s.idleEnd
    | .running =>
      match step s with
      | .next t => runFor n t
      | .fault f => .faulted f
      | .refused r => .refused r

end Sys2Proof.Machine
end

