-- ==== Sys2Proof/Safety.lean ====
section
/-!
DEFINITION. What the claims speak of: the invariant of the machine, the pieces of state a frame names, and what it means
that an instruction completes.
-/

namespace Sys2Proof.Machine

/-! ## The invariant -/

/-- Local Memory is canonical and has 16,384 words (20_memory.md R60). -/
def State.LocalMemoryOk (s : State) : Prop := Memory.wf s.lm = true ∧ Memory.within Config.lmWords s.lm = true

/-- Common Memory is canonical and has `CM_WORDS` words (R65). -/
def State.CommonMemoryOk (s : State) : Prop := Memory.wf s.cm = true ∧ Memory.within Config.cmWords s.cm = true

/-- The Idle Mode flag shows the run state (60_exceptions.md R421, R425), as long as the host does not clear it in idle
mode (R440). -/
def State.IdleFlagOk (s : State) : Prop := s.st.idleMode = true ↔ s.run = .idle

/-- The instruction buffer holds at most eight blocks, none of them twice (10_state.md R52). -/
def State.BufferOk (s : State) : Prop := s.ibuf.length ≤ Config.bufferFields ∧ s.ibuf.Nodup

/-- The words noted as written are listed once each, rising, and each of them holds a word (20_memory.md R79). -/
def State.WrittenOk (s : State) : Prop :=
  rising s.written = true ∧ ∀ a, a ∈ s.written → (Memory.word? s.cm a).isSome = true

/-- A running processor has a legal field (70_reset_and_hazards.md R462 LP1). -/
def State.FieldOk (s : State) : Prop := s.run = .running → s.fieldOk = true

/-- The invariant that every step keeps. -/
structure State.Inv (s : State) : Prop where
  localMemory : s.LocalMemoryOk
  commonMemory : s.CommonMemoryOk
  idleFlag : s.IdleFlagOk
  buffer : s.BufferOk
  written : s.WrittenOk
  field : s.FieldOk

/-! ## Frames -/

/-- A piece of state. `localByte x` and `commonByte x` are the bytes at byte address `x` (entry 7). -/
inductive Piece where
  | p
  | a (r : Reg)
  | s (r : Reg)
  | v (r : Reg) (e : Nat)
  | vl
  | vm
  | ba
  | la
  | rtc
  | sem (n : Fin 8)
  | semPtr
  | semBit
  | exitMode
  | idleMode
  | exitCode
  | enRangeHalt
  | enFloatHalt
  | rangeErr
  | floatErr
  | run
  | localByte (x : Nat)
  | commonByte (x : Nat)
  | written
  | ibuf
  | freeIndex
  deriving DecidableEq, Repr

/-- The piece holds the same in both states. -/
def Piece.same (s t : State) : Piece → Prop
  | .p => t.p = s.p
  | .a r => t.getA r = s.getA r
  | .s r => t.getS r = s.getS r
  | .v r e => t.elem r e = s.elem r e
  | .vl => t.vl = s.vl
  | .vm => t.vm = s.vm
  | .ba => t.ba = s.ba
  | .la => t.la = s.la
  | .rtc => t.rtc = s.rtc
  | .sem n => t.sem[n] = s.sem[n]
  | .semPtr => t.st.semPtr = s.st.semPtr
  | .semBit => t.st.semBit = s.st.semBit
  | .exitMode => t.st.exitMode = s.st.exitMode
  | .idleMode => t.st.idleMode = s.st.idleMode
  | .exitCode => t.st.exitCode = s.st.exitCode
  | .enRangeHalt => t.st.enRangeHalt = s.st.enRangeHalt
  | .enFloatHalt => t.st.enFloatHalt = s.st.enFloatHalt
  | .rangeErr => t.st.rangeErr = s.st.rangeErr
  | .floatErr => t.st.floatErr = s.st.floatErr
  | .run => t.run = s.run
  | .localByte x => Memory.byte? t.lm x = Memory.byte? s.lm x
  | .commonByte x => Memory.byte? t.cm x = Memory.byte? s.cm x
  | .written => t.written = s.written
  | .ibuf => t.ibuf = s.ibuf
  | .freeIndex => t.freeIndex = s.freeIndex

/-- Every piece of state is unchanged except those `touched`. -/
def Frame (s t : State) (touched : Piece → Prop) : Prop := ∀ q, ¬ touched q → Piece.same s t q

/-- The byte address `x` lies in word `a` of its memory. -/
def InWord (a x : Nat) : Prop := wordBase a ≤ x ∧ x < wordBase a + 8

/-! ## Completion: `exec` answers a next state -/

/-- P has moved past `n` parcels. -/
def State.Advanced (s t : State) (n : Nat) : Prop := t.p = s.p + BitVec.ofNat 32 n

/-- `x` completes, changes only the pieces `touched`, and its next state satisfies `post`. -/
def Completes (x : Instr) (s : State) (touched : Piece → Prop) (post : State → Prop) : Prop :=
  ∃ t, exec x s = .next t ∧ Frame s t touched ∧ post t

/-- `x` completes with `v` in A_i, moves P past `n` parcels and changes nothing else. -/
def DeliversA (x : Instr) (s : State) (i : Reg) (v : Addr) (n : Nat) : Prop :=
  Completes x s (fun q => q = .p ∨ q = .a i) fun t => t.getA i = v ∧ s.Advanced t n

/-- `x` completes with `v` in S_i, moves P past `n` parcels and changes nothing else. -/
def DeliversS (x : Instr) (s : State) (i : Reg) (v : Word) (n : Nat) : Prop :=
  Completes x s (fun q => q = .p ∨ q = .s i) fun t => t.getS i = v ∧ s.Advanced t n

/-- `x` completes with `f e` in the elements e below `n` of V_i, moves P past one parcel and changes nothing else. -/
def DeliversV (x : Instr) (s : State) (i : Reg) (n : Nat) (f : Nat → Word) : Prop :=
  Completes x s (fun q => q = .p ∨ ∃ e, e < n ∧ q = .v i e) fun t =>
    (∀ e, e < n → t.elem i e = f e) ∧ s.Advanced t 1

/-- `x` completes with `v` in Local Memory word `a`, moves P past `n` parcels and changes nothing else. -/
def StoresLocal (x : Instr) (s : State) (a : Nat) (v : Word) (n : Nat) : Prop :=
  Completes x s (fun q => q = .p ∨ ∃ b, InWord a b ∧ q = .localByte b) fun t =>
    Memory.word? t.lm a = some v ∧ s.Advanced t n

/-- `x` completes with `v` in Common Memory word `a`, noted as written, moves P past `n` parcels and changes nothing
else. -/
def StoresCommon (x : Instr) (s : State) (a : Nat) (v : Word) (n : Nat) : Prop :=
  Completes x s (fun q => q = .p ∨ q = .written ∨ ∃ b, InWord a b ∧ q = .commonByte b) fun t =>
    Memory.word? t.cm a = some v ∧ (∀ b, b ∈ t.written ↔ b = a ∨ b ∈ s.written) ∧ s.Advanced t n

/-- `x` completes as a jump to `target` and changes nothing but P. -/
def JumpsTo (x : Instr) (s : State) (target : Addr) : Prop :=
  Completes x s (fun q => q = .p) fun t => t.p = target

/-- `x` completes as a branch of three parcels: to `target` where `taken` holds, else past itself. -/
def BranchesOn (x : Instr) (s : State) (taken : Prop) (target : Addr) : Prop :=
  (taken → JumpsTo x s target) ∧ (¬ taken → JumpsTo x s (s.p + 3))

/-- `x` completes, does nothing and moves P past one parcel. -/
def Passes (x : Instr) (s : State) : Prop := JumpsTo x s (s.p + 1)

/-! ## Common Memory references (20_memory.md R69 to R71) -/

/-- The absolute word address of a relative Common Memory address, as a number. -/
def State.wordOf (s : State) (rel : Addr) : Nat := (s.absolute rel).toNat

/-- The relative address lies in the field: `BA <= abs < LA`. -/
def State.InRange (s : State) (rel : Addr) : Prop := s.ba.toNat ≤ s.wordOf rel ∧ s.wordOf rel < s.la.toNat

/-- A reference at `rel` lies in the field and in Common Memory. -/
def State.Reaches (s : State) (rel : Addr) : Prop := s.InRange rel ∧ s.wordOf rel < Config.cmWords

/-- A reference at `rel` lies in the field and in Common Memory, where `w` stands. -/
def State.Holds (s : State) (rel : Addr) (w : Word) : Prop :=
  s.Reaches rel ∧ Memory.word? s.cm (s.wordOf rel) = some w

/-- `x` completes with zero data in S_i and the range error bit set. -/
def LoadsZero (x : Instr) (s : State) (i : Reg) (n : Nat) : Prop :=
  Completes x s (fun q => q = .p ∨ q = .s i ∨ q = .rangeErr) fun t =>
    t.getS i = 0 ∧ t.st.rangeErr = true ∧ s.Advanced t n

/-- `x` completes with no memory changed and the range error bit set. -/
def AbortsStore (x : Instr) (s : State) (n : Nat) : Prop :=
  Completes x s (fun q => q = .p ∨ q = .rangeErr) fun t => t.st.rangeErr = true ∧ s.Advanced t n

/-- `x` is a load of the elements below `n` of V_i from the relative addresses `rel e`. -/
def LoadsElements (x : Instr) (s : State) (i : Reg) (n : Nat) (rel : Nat → Addr) : Prop :=
  Completes x s (fun q => q = .p ∨ q = .rangeErr ∨ ∃ e, e < n ∧ q = .v i e) fun t =>
    (∀ e, e < n → ¬ s.InRange (rel e) → t.elem i e = 0) ∧
    (∀ e w, e < n → s.Holds (rel e) w → t.elem i e = w) ∧
    (t.st.rangeErr = true ↔ s.st.rangeErr = true ∨ ∃ e, e < n ∧ ¬ s.InRange (rel e)) ∧ s.Advanced t 1

/-- `x` is a store of the elements below `n` of V_i to the relative addresses `rel e`: the last element sent to a word
stays, an element outside the field goes nowhere. -/
def StoresElements (x : Instr) (s : State) (i : Reg) (n : Nat) (rel : Nat → Addr) : Prop :=
  Completes x s
    (fun q => q = .p ∨ q = .rangeErr ∨ q = .written ∨
      ∃ e b, e < n ∧ s.InRange (rel e) ∧ InWord (s.wordOf (rel e)) b ∧ q = .commonByte b) fun t =>
    (∀ e, e < n → s.InRange (rel e) → (∀ d, e < d → d < n → rel d ≠ rel e) →
      Memory.word? t.cm (s.wordOf (rel e)) = some (s.elem i e)) ∧
    (∀ a, a ∈ t.written ↔ a ∈ s.written ∨ ∃ e, e < n ∧ s.InRange (rel e) ∧ a = s.wordOf (rel e)) ∧
    (t.st.rangeErr = true ↔ s.st.rangeErr = true ∨ ∃ e, e < n ∧ ¬ s.InRange (rel e)) ∧ s.Advanced t 1

/-! ## Halts (60_exceptions.md R425, R427; entry 14): the status bits and the run state, nothing else -/

/-- `x` halts the processor: it is idle, Idle Mode is set and the exit fields are as they were (R425). That the exit
fields can be named after a halt is R425 and 93_implementation_defined.md item 14, beyond R427 (a) (entry 14). -/
def Halts (x : Instr) (s : State) (post : State → Prop) : Prop :=
  ∃ t, exec x s = .next t ∧ t.run = .idle ∧ t.st.idleMode = true ∧ t.st.exitMode = s.st.exitMode ∧
    t.st.exitCode = s.st.exitCode ∧ post t

/-- The instruction at P is 000 or 001, with the code `jk`. -/
def State.AtExit (s : State) (jk : Short) : Prop :=
  ∃ l rest i, s.fetch = .ok l ∧ decode l = .ok (i, rest) ∧ (i = .exit jk ∨ i = .exitAlt jk)

/-- The step from `s` to `t` is not a halt: it does not stop a running processor, or does so by an exit. After a halt the
state is unavailable (R427). -/
def NoHalt (s t : State) : Prop := s.run = .running → t.run = .running ∨ ∃ jk, s.AtExit jk

/-! ## Runs (60_exceptions.md R432) -/

/-- The run has an end. -/
def RunEnd.Ended : RunEnd → Prop
  | .unfinished _ => False
  | _ => True

/-- The run from `s` never ends: (d) of R432. -/
def Stuck (s : State) : Prop := ∀ n, ¬ (runFor n s).Ended

/-- A state in which a run starts: running, with the flags that tell its end cleared (70_reset_and_hazards.md R462 LP5). -/
def State.Started (s : State) : Prop :=
  s.run = .running ∧ s.st.exitMode = false ∧ s.st.rangeErr = false ∧ s.st.floatErr = false

/-! ## The host (60_exceptions.md R440) -/

/-- The pieces a write of the host names. -/
def HostWrite.Touches : HostWrite → Piece → Prop
  | .p _, q => q = .p
  | .ba _, q => q = .ba
  | .la _, q => q = .la
  | .a r _, q => q = .a r
  | .s r _, q => q = .s r
  | .v r e _, q => q = .v r e.toNat
  | .vl _, q => q = .vl
  | .vm _, q => q = .vm
  | .localWord addr _, q => ∃ b, InWord addr.toNat b ∧ q = .localByte b
  | .commonWord addr _, q => ∃ b, InWord addr.toNat b ∧ q = .commonByte b
  | .sem n _, q => q = .sem n
  | .semPtr _, q => q = .semPtr
  | .semBit _, q => q = .semBit
  | .exitMode _, q => q = .exitMode
  | .idleMode _, q => q = .idleMode
  | .exitCode _, q => q = .exitCode
  | .enRangeHalt _, q => q = .enRangeHalt
  | .enFloatHalt _, q => q = .enFloatHalt
  | .rangeErr _, q => q = .rangeErr
  | .floatErr _, q => q = .floatErr

/-- The state holds what the host has written. -/
def HostWrite.Stands (t : State) : HostWrite → Prop
  | .p x => t.p = x
  | .ba x => t.ba = x
  | .la x => t.la = x
  | .a r x => t.getA r = x
  | .s r x => t.getS r = x
  | .v r e x => t.elem r e.toNat = x
  | .vl x => t.vl = x
  | .vm x => t.vm = x
  | .localWord addr x => Memory.word? t.lm addr.toNat = some x
  | .commonWord addr x => Memory.word? t.cm addr.toNat = some x
  | .sem n x => t.sem[n] = x
  | .semPtr x => t.st.semPtr = x
  | .semBit x => t.st.semBit = x
  | .exitMode x => t.st.exitMode = x
  | .idleMode x => t.st.idleMode = x
  | .exitCode x => t.st.exitCode = x
  | .enRangeHalt x => t.st.enRangeHalt = x
  | .enFloatHalt x => t.st.enFloatHalt = x
  | .rangeErr x => t.st.rangeErr = x
  | .floatErr x => t.st.floatErr = x

/-- The write names a word of Common Memory. -/
def HostWrite.IsCommon : HostWrite → Prop
  | .commonWord _ _ => True
  | _ => False

/-! ## Floating-point results: a word and whether the operation erred (46_scalar_float.md R320,
48_vector_float_integer.md R380) -/

/-- Where it does not err, or the halt is disabled, `x` completes with the word in S_i and changes nothing else. -/
def FloatToS (x : Instr) (s : State) (i : Reg) (r : Word × Bool) : Prop :=
  (r.2 = false ∨ s.st.enFloatHalt = false) → DeliversS x s i r.1 1

/-- Where no element errs, or the halt is disabled, `x` completes with the words in the elements of V_i and changes
nothing else. -/
def FloatToV (x : Instr) (s : State) (i : Reg) (f : Nat → Word × Bool) : Prop :=
  ((∀ e, e < s.vlen → (f e).2 = false) ∨ s.st.enFloatHalt = false) → DeliversV x s i s.vlen fun e => (f e).1

/-- Where it errs and the halt is enabled, `x` halts the processor with the floating-point error bit set. -/
def FloatHaltS (x : Instr) (s : State) (r : Word × Bool) : Prop :=
  r.2 = true → s.st.enFloatHalt = true → Halts x s fun t => t.st.floatErr = true

/-- Where an element errs and the halt is enabled, `x` halts the processor with the floating-point error bit set. -/
def FloatHaltV (x : Instr) (s : State) (f : Nat → Word × Bool) : Prop :=
  (∃ e, e < s.vlen ∧ (f e).2 = true) → s.st.enFloatHalt = true → Halts x s fun t => t.st.floatErr = true

/-! ## Floating-point values (40_numerics.md R137, R139) -/

/-- `(-1)^s * C * 2^(E - 0o40000 - 48)` (R137). -/
def floatValue (w : Word) : Rat :=
  (if floatSign w then -1 else 1) * (floatCoef w : Rat) * (2 : Rat) ^ ((floatExp w : Int) - 0o40000 - 48)

/-- The value an operand of the add unit counts as: zero where its exponent underflows (R139). -/
def operandValue (w : Word) : Rat := if isUnderflowed w then 0 else floatValue w

/-! ## The square root algorithm (R152) -/

/-- The word the four instructions of R152 leave in S5 for the operand `a` in S1. -/
def sqrtAlgorithm (a : Word) : Word :=
  let s2 := (fRsqrt a).1
  let s3 := (fMul a s2).1
  let s4 := (fRsqrtIter s2 s3).1
  (fMul s3 s4).1

/-- The accuracy R152 states for a positive normalized operand in range: "46 bits of coefficient accuracy", read as an
error below 2^-46 of the coefficient's unit. The square root functions are configuration fields (R143), whose named
properties are axioms of the model (95_test_vectors.md 1.5); a claim that needs this one takes it as a premise by this
name (entry 44). -/
def SqrtAccurate : Prop :=
  ∀ a : Word, isInRange a = true → isNormalized a = true → floatSign a = false →
    isInRange (sqrtAlgorithm a) = true ∧
    ∃ d : Rat, d = (2 : Rat) ^ ((floatExp (sqrtAlgorithm a) : Int) - 0o40000 - 46) ∧
      d ≤ floatValue (sqrtAlgorithm a) ∧
      (floatValue (sqrtAlgorithm a) - d) ^ 2 ≤ floatValue a ∧ floatValue a ≤ (floatValue (sqrtAlgorithm a) + d) ^ 2

/-- No 1 bit is shifted out of `b` when its exponent is matched to that of `a` (R144 FAdd-exact). -/
def NoBitLost (a b : Word) : Prop := floatExp b ≤ floatExp a → floatCoef b % 2 ^ (floatExp a - floatExp b) = 0

end Sys2Proof.Machine
end

