-- ==== Sys2Proof/Certificates/Slice0/Obligations.lean ====
section
/-!
DEFINITION. The statements about the model, for the provers. A choice of the model is named with its log entry.
-/

open Sys2Proof Sys2Proof.Machine

/-- Decoding the parcels of any well-formed instruction gives that instruction back (R101, R103, R104, R107, R109). -/
def Obligations.DecodeEncode : Prop :=
  ∀ i : Instr, i.wellFormed = true → ∀ rest : List Parcel, decode (encode i ++ rest) = .ok (i, rest)

/-- Words written in the spec decode to the instructions they stand for (R201, R242, R265, R298, R351, R409). -/
def Obligations.DecodeWords : Prop :=
  decode [0x2053] = .ok (.addA 1 2 3, []) ∧
  decode [0x0600, 0x0000, 0x029C] = .ok (.jump 0o1234, []) ∧
  decode [0x4880, 0x0040] = .ok (.loadALocal 2 0o100, []) ∧
  decode [0x5640, 0x0001, 0x0002, 0x0003, 0x0004] = .ok (.fullS 1 0x0001000200030004, []) ∧
  decode [0x6843, 0xFFFF, 0xFFFF] = .ok (.loadSDisp 1 3 0xFFFFFFFF, []) ∧
  decode [0x8C51] = .ok (.parityS 1 2, []) ∧
  decode [0xA053] = .ok (.faddS 1 2 3, []) ∧
  decode [0xC053] = .ok (.andSV 1 2 3, []) ∧
  decode [0xFC53] = .ok (.iota 1 2 3, [])

/-- An instruction encodes to the parcels it was decoded from, with the ignored fields zero (R101, R104, R105,
R109). -/
def Obligations.EncodeDecode : Prop :=
  ∀ (p : Parcel) (l rest : List Parcel) (i : Instr), decode (p :: l) = .ok (i, rest) →
    encode i = (p &&& usedBits p) :: l.take (parcelCount p - 1)

/-- Every first parcel begins a well-formed instruction; missing parcels are refused by name (model's choice, log
entry 39) (R103, R107, R110). -/
def Obligations.DecodeTotal : Prop :=
  decode [] = .error .noParcel ∧
  ∀ (p : Parcel) (l : List Parcel),
    (parcelCount p ≤ l.length + 1 → ∃ i, decode (p :: l) = .ok (i, l.drop (parcelCount p - 1)) ∧
      i.wellFormed = true ∧ i.parcels = parcelCount p) ∧
    (l.length + 1 < parcelCount p → decode (p :: l) = .error (.truncated (parcelCount p) (l.length + 1)))

/-- A step of a running processor executes the instruction decoded at P, after clock and buffer (log entries 41, 19,
18) (R13, R27, R44, R52, R436). -/
def Obligations.StepRunsDecoded : Prop :=
  ∀ (s : State) (l rest : List Parcel) (i : Instr), s.run = .running → s.fieldOk = true → s.fetch = .ok l →
    decode l = .ok (i, rest) → step s = exec i (s.tick.fill l.length)

/-- A fetch answers the parcels at P, parcel 0 in a word's high-order bits (model's choice, log entries 8 and 9) (R25,
R26, R66, R72, R103). -/
def Obligations.FetchReadsParcels : Prop :=
  ∀ (s : State) (w : Nat → Word) (n : Nat),
    n = parcelCount ((w 0).extractLsb' (48 - 16 * (s.p.toNat % 4)) 16) →
    (∀ m, m < n → s.Holds ((s.p + BitVec.ofNat 32 m) >>> 2) (w m) ∧
      s.wordOf ((s.p + BitVec.ofNat 32 m) >>> 2) ∉ s.written) →
    s.fetch = .ok ((List.range n).map fun m => (w m).extractLsb' (48 - 16 * ((s.p.toNat + m) % 4)) 16)

/-- A fetch outside the field, from a written word or an empty word faults (model's choice, entries 9, 17, 6) (R72,
R79, R56). -/
def Obligations.FetchFaults : Prop :=
  ∀ s : State, s.run = .running → s.fieldOk = true →
    (¬ s.InRange (s.p >>> 2) → step s = .fault .fetchRange) ∧
    (s.InRange (s.p >>> 2) → s.wordOf (s.p >>> 2) ∈ s.written → step s = .fault .staleInstruction) ∧
    (s.InRange (s.p >>> 2) → s.wordOf (s.p >>> 2) ∉ s.written →
      Memory.word? s.cm (s.wordOf (s.p >>> 2)) = none → step s = .fault .unwrittenFetch)

/-- In idle mode a step changes nothing but the clock (R44, R436, R439). -/
def Obligations.IdleOnlyCounts : Prop :=
  ∀ s : State, s.run = .idle →
    ∃ t, step s = .next t ∧ Frame s t fun q => q = .rtc ∨ q = .freeIndex

/-- No instruction sets the clock: every step counts it on, until it wraps (how far: log entries 19, 14) (R38,
R436). -/
def Obligations.ClockCounts : Prop :=
  ∀ s t : State, step s = .next t → s.rtc.toNat < 2 ^ 64 - 1 → s.rtc.toNat < t.rtc.toNat

/-- A launch starts a computation period where its premises hold and is refused elsewhere (model's choices, entries
30, 19) (R431, R461, R462). -/
def Obligations.LaunchStarts : Prop :=
  ∀ (s : State) (l : Launch),
    (s.run = .idle → l.ba0.toNat ≤ l.la0.toNat → l.la0.toNat ≤ Config.cmWords →
      l.ba0.toNat + l.p0.toNat / 4 < l.la0.toNat →
      ∃ t, s.launch l = .next t ∧ t.run = .running ∧ t.p = l.p0 ∧ t.ba = l.ba0 ∧ t.la = l.la0 ∧
        t.st = { s.st with exitMode := false, idleMode := false, exitCode := 0, semPtr := l.semPtr,
                           semBit := l.semBit, rangeErr := false, floatErr := false } ∧
        t.ibuf = [] ∧ t.written = [] ∧
        Frame s t fun q => q = .run ∨ q = .p ∨ q = .ba ∨ q = .la ∨ q = .exitMode ∨ q = .idleMode ∨ q = .exitCode ∨
          q = .semPtr ∨ q = .semBit ∨ q = .rangeErr ∨ q = .floatErr ∨ q = .ibuf ∨ q = .written) ∧
    (s.run = .idle → ¬ (l.ba0.toNat ≤ l.la0.toNat ∧ l.la0.toNat ≤ Config.cmWords ∧
      l.ba0.toNat + l.p0.toNat / 4 < l.la0.toNat) → s.launch l = .refused .launchPremise) ∧
    (s.run = .running → s.launch l = .refused .notIdle) ∧
    (s.run = .running → ¬ (s.ba.toNat ≤ s.la.toNat ∧ s.la.toNat ≤ Config.cmWords) →
      step s = .refused .launchPremise)

/-- The host writes any piece of an idle processor, and of a running one only Common Memory (log entry 43) (R431,
R440, R475). -/
def Obligations.ForegroundWrites : Prop :=
  ∀ (s : State) (buffer : List Nat) (w : HostWrite),
    (s.run = .idle → ∃ t, s.hostWrite buffer w = .next t ∧ Frame s t w.Touches ∧ w.Stands t) ∧
    (s.run = .running → ¬ w.IsCommon → s.hostWrite buffer w = .refused .notIdle) ∧
    (∀ (a : BitVec 28) (x : Word), w = .commonWord a x → s.run = .running →
      (¬ (s.ba.toNat ≤ a.toNat ∧ a.toNat < s.la.toNat) ∨ a.toNat ∈ buffer →
        ∃ t, s.hostWrite buffer w = .next t ∧ Frame s t (fun q => q = .written ∨ w.Touches q) ∧ w.Stands t ∧
          ∀ b, b ∈ t.written ↔ b = a.toNat ∨ b ∈ s.written) ∧
      (s.ba.toNat ≤ a.toNat → a.toNat < s.la.toNat → a.toNat ∉ buffer →
        s.hostWrite buffer w = .refused .hostContract))

/-- Every step keeps the invariant (R52, R60, R65, R79, R421, R425, R462). -/
def Obligations.StepKeepsInvariant : Prop :=
  ∀ s t : State, s.Inv → step s = .next t → t.Inv

/-- The reset state is idle, its memories hold nothing, and it meets the invariant (register values: entries 4, 5)
(R55, R460, R56). -/
def Obligations.ResetInvariant : Prop :=
  State.reset.run = .idle ∧ (∀ a, Memory.word? State.reset.lm a = none) ∧
  (∀ a, Memory.word? State.reset.cm a = none) ∧ State.reset.Inv

/-- A launch establishes the invariant, and a write of the host keeps it, unless it clears the Idle Mode flag (entry
43) (R440, R461, R462). -/
def Obligations.LaunchKeepsInvariant : Prop :=
  (∀ (s t : State) (l : Launch), s.LocalMemoryOk → s.CommonMemoryOk → s.launch l = .next t → t.Inv) ∧
  (∀ (s t : State) (buffer : List Nat) (w : HostWrite), s.Inv → w ≠ .idleMode false →
    s.hostWrite buffer w = .next t → t.Inv)

/-- No step but a halt changes BA, LA or another Semaphore flag; none changes the pointer or clears an error bit
(entries 14, 16) (R29, R30, R39, R42, R43, R427, R430). -/
def Obligations.StepKeepsAssignment : Prop :=
  ∀ s t : State, step s = .next t →
    t.st.semPtr = s.st.semPtr ∧
    (s.st.rangeErr = true → t.st.rangeErr = true) ∧ (s.st.floatErr = true → t.st.floatErr = true) ∧
    (NoHalt s t → t.ba = s.ba ∧ t.la = s.la ∧ ∀ n : Fin 8, n.val ≠ s.st.semPtr.toNat → t.sem[n] = s.sem[n])

/-- A computation period ends only by an exit or by a halt on an enabled error (halts: log entries 14, 16) (R421,
R425, R432, R434). -/
def Obligations.PeriodEnds : Prop :=
  ∀ s t : State, s.run = .running → step s = .next t → t.run = .idle →
    t.st.idleMode = true ∧
    ((∃ l rest jk i, s.fetch = .ok l ∧ decode l = .ok (i, rest) ∧ (i = .exit jk ∨ i = .exitAlt jk) ∧
        t.st.exitMode = true ∧ t.st.exitCode = jk) ∨
     (t.st.exitMode = s.st.exitMode ∧ t.st.exitCode = s.st.exitCode ∧
       ((s.st.enRangeHalt = true ∧ t.st.rangeErr = true) ∨ (s.st.enFloatHalt = true ∧ t.st.floatErr = true))))

/-- A run ends in at most one way: exited by an instruction 000 or 001, halted with an error bit, or in a stop (halts:
entry 14) (R421, R425, R427, R432). -/
def Obligations.RunsEnd : Prop :=
  ∀ s : State,
    (∀ n m, (runFor n s).Ended → runFor (n + m) s = runFor n s) ∧
    (Stuck s ∨ ∃ n, (runFor n s).Ended ∧ ∀ m, (runFor m s).Ended → runFor m s = runFor n s) ∧
    (s.Started → ∀ n,
      (∀ t, runFor n s = .exited t → t.run = .idle ∧ t.st.exitMode = true ∧
        ∃ m u, m < n ∧ runFor m s = .unfinished u ∧ u.AtExit t.st.exitCode ∧ step u = .next t) ∧
      (∀ a b, runFor n s = .halted a b → a = true ∨ b = true))

/-- No step but a halt changes a word of Common Memory outside the field from BA to LA (halts: log entry 14) (R69,
R71, R73, R427). -/
def Obligations.StepWritesOnlyField : Prop :=
  ∀ (s t : State) (a : Nat), step s = .next t → NoHalt s t → ¬ (s.ba.toNat ≤ a ∧ a < s.la.toNat) →
    ∀ x, InWord a x → Memory.byte? t.cm x = Memory.byte? s.cm x

/-- What a step does depends on no word of Common Memory outside the field (R69, R70, R72, R73). -/
def Obligations.StepReadsOnlyField : Prop :=
  ∀ (s : State) (m : Memory),
    (∀ a, s.ba.toNat ≤ a → a < s.la.toNat → Memory.word? m a = Memory.word? s.cm a) →
    (∀ t, step s = .next t → ∃ n, step { s with cm := m } = .next { t with cm := n } ∧
      ∀ a, s.ba.toNat ≤ a → a < s.la.toNat → Memory.word? n a = Memory.word? t.cm a) ∧
    (∀ f, step s = .fault f → step { s with cm := m } = .fault f) ∧
    (∀ r, step s = .refused r → step { s with cm := m } = .refused r)

/-- A Local Memory write is read back and changes no other word; above 16383 both fault (log entry 12) (R60, R62,
R63). -/
def Obligations.LocalMemoryLaws : Prop :=
  ∀ (s : State) (a : Nat) (v : Word),
    (a ≤ 16383 → ∃ t, s.localWrite a v = .ok t ∧ t.localRead a = .ok v ∧
      (∀ b, b ≠ a → t.localRead b = s.localRead b) ∧ Frame s t fun q => ∃ b, InWord a b ∧ q = .localByte b) ∧
    (16383 < a → s.localRead a = .error .localAddress ∧ s.localWrite a v = .error .localAddress)

/-- A Common Memory write in the field is read back and changes no other word; outside it reads are zero (R69, R70,
R71, R75). -/
def Obligations.CommonMemoryLaws : Prop :=
  ∀ (s : State) (rel : Addr) (v : Word),
    (s.Reaches rel → ∃ t, s.commonWrite rel v = .ok t ∧ t.commonRead rel = .ok v ∧
      (∀ r, r ≠ rel → t.commonRead r = s.commonRead r) ∧
      Frame s t fun q => q = .written ∨ ∃ b, InWord (s.wordOf rel) b ∧ q = .commonByte b) ∧
    (¬ s.InRange rel → s.commonRead rel = .ok 0 ∧ s.commonWrite rel v = .ok s)

/-- 000 and 001 enter the code jk, set Exit Mode and Idle Mode, and put the processor in idle mode (R171, R172). -/
def Obligations.Exits : Prop :=
  ∀ (s : State) (jk : Short) (x : Instr), x = .exit jk ∨ x = .exitAlt jk →
    Completes x s (fun q => q = .p ∨ q = .exitCode ∨ q = .exitMode ∨ q = .idleMode ∨ q = .run) fun t =>
      t.st.exitCode = jk ∧ t.st.exitMode = true ∧ t.st.idleMode = true ∧ t.run = .idle

/-- 002 jumps to the old content of A_k and saves P + 1 in A_i; 003 jumps to its constant (R174, R175). -/
def Obligations.Jumps : Prop :=
  ∀ (s : State) (i k : Reg) (c : Addr),
    Completes (.jumpReg i k) s (fun q => q = .p ∨ q = .a i) (fun t => t.getA i = s.p + 1 ∧ t.p = s.getA k) ∧
    JumpsTo (.jump c) s c

/-- 004 and 005 set the Semaphore flag and jump on what it was; the status bit is set if the flag changed from 0
(R176, R177). -/
def Obligations.SemaphoreJumps : Prop :=
  ∀ (s : State) (c : Addr) (n : Fin 8), n.val = s.st.semPtr.toNat →
    Completes (.jumpSemClear c) s (fun q => q = .p ∨ q = .sem n ∨ q = .semBit) (fun t =>
      t.sem[n] = true ∧ t.st.semBit = (s.st.semBit || !s.sem[n]) ∧ t.p = if s.sem[n] then s.p + 3 else c) ∧
    Completes (.jumpSemSet c) s (fun q => q = .p ∨ q = .sem n ∨ q = .semBit) (fun t =>
      t.sem[n] = true ∧ t.st.semBit = (s.st.semBit || !s.sem[n]) ∧ t.p = if s.sem[n] then c else s.p + 3)

/-- 006 sets the Semaphore flag; 007 clears it with the Semaphore bit of the status register (R178, R179). -/
def Obligations.SemaphoreSetClear : Prop :=
  ∀ (s : State) (n : Fin 8), n.val = s.st.semPtr.toNat →
    Completes .setSem s (fun q => q = .p ∨ q = .sem n ∨ q = .semBit) (fun t =>
      t.sem[n] = true ∧ t.st.semBit = (s.st.semBit || !s.sem[n]) ∧ s.Advanced t 1) ∧
    Completes .clearSem s (fun q => q = .p ∨ q = .sem n ∨ q = .semBit) (fun t =>
      t.sem[n] = false ∧ t.st.semBit = false ∧ s.Advanced t 1)

/-- 010, 011, 013 branch on (A_k), and 014, 015, 017 on (S_j), being zero, nonzero, negative (R180, R181, R183, R184,
R185, R187). -/
def Obligations.BranchesOnZeroAndSign : Prop :=
  ∀ (s : State) (j k : Reg) (c : Addr),
    BranchesOn (.jumpAZero k c) s (s.getA k = 0) c ∧
    BranchesOn (.jumpANonzero k c) s (s.getA k ≠ 0) c ∧
    BranchesOn (.jumpANegative k c) s ((s.getA k).getLsbD 31 = true) c ∧
    BranchesOn (.jumpSZero j c) s (s.getS j = 0) c ∧
    BranchesOn (.jumpSNonzero j c) s (s.getS j ≠ 0) c ∧
    BranchesOn (.jumpSNegative j c) s ((s.getS j).getLsbD 63 = true) c

/-- 012 and 016 branch where the sign bit is 0, so also on zero (D3, log entry 11) (R173, R182, R186). -/
def Obligations.BranchesOnPositive : Prop :=
  ∀ (s : State) (j k : Reg) (c : Addr),
    BranchesOn (.jumpAPositive k c) s ((s.getA k).getLsbD 31 = false) c ∧
    BranchesOn (.jumpSPositive j c) s ((s.getS j).getLsbD 63 = false) c

/-- 020 to 023 deliver the 32-bit sum, difference and low-order product of (A_j) and (A_k) to A_i (R201, R202, R203,
R204). -/
def Obligations.AddressArithmetic : Prop :=
  ∀ (s : State) (i j k : Reg),
    DeliversA (.addA i j k) s i (BitVec.ofNat 32 ((s.getA j).toNat + (s.getA k).toNat)) 1 ∧
    DeliversA (.subA i j k) s i (BitVec.ofInt 32 ((s.getA j).toNat - (s.getA k).toNat : Int)) 1 ∧
    DeliversA (.mulA i j k) s i (BitVec.ofNat 32 ((s.getA j).toNat * (s.getA k).toNat)) 1 ∧
    DeliversA (.mulAAlt i j k) s i (BitVec.ofNat 32 ((s.getA j).toNat * (s.getA k).toNat)) 1

/-- 024 to 027 and 040 to 043 enter (S_j), (VL) or a constant into A_i (R205, R206, R207, R208, R231, R232, R233,
R234). -/
def Obligations.EntriesIntoA : Prop :=
  ∀ (s : State) (i j : Reg) (jk : Short) (h : Parcel) (c : Addr),
    DeliversA (.moveSToA i j) s i (BitVec.ofNat 32 (s.getS j).toNat) 1 ∧
    DeliversA (.readVL i) s i (BitVec.ofNat 32 s.vl.toNat) 1 ∧
    DeliversA (.shortPosA i jk) s i (BitVec.ofNat 32 jk.toNat) 1 ∧
    DeliversA (.shortNegA i jk) s i (BitVec.ofInt 32 (jk.toNat - 64 : Int)) 1 ∧
    DeliversA (.parcelPosA i h) s i (BitVec.ofNat 32 h.toNat) 2 ∧
    DeliversA (.parcelNegA i h) s i (BitVec.ofInt 32 (h.toNat - 65536 : Int)) 2 ∧
    DeliversA (.halfA i c) s i c 3 ∧
    DeliversA (.halfAAlt i c) s i c 3

/-- 030 to 033 set the VM bit of each element that passes the test and clear all others (D19, D3; entries 38, 11)
(R209, R210, R211, R212, R213). -/
def Obligations.VectorMasks : Prop :=
  ∀ (s : State) (k : Reg) (x : Instr) (test : Word → Bool),
    (x = .maskZero k ∧ test = fun w => decide (w = 0)) ∨
    (x = .maskNonzero k ∧ test = fun w => decide (w ≠ 0)) ∨
    (x = .maskPositive k ∧ test = fun w => !w.getLsbD 63) ∨
    (x = .maskNegative k ∧ test = fun w => w.getLsbD 63) →
    Completes x s (fun q => q = .p ∨ q = .vm) fun t =>
      (∀ e, e < 64 → t.vm.getLsbD (63 - e) = (decide (e < s.vlen) && test (s.elem k e))) ∧ s.Advanced t 1

/-- 034 copies (S_j) to VM, 036 and 037 the low six bits of (A_k) to VL, 114 copies (VM) to S_i (R214, R221, R222,
R305). -/
def Obligations.VectorControl : Prop :=
  ∀ (s : State) (i j k : Reg),
    Completes (.writeVM j) s (fun q => q = .p ∨ q = .vm) (fun t => t.vm = s.getS j ∧ s.Advanced t 1) ∧
    Completes (.writeVL k) s (fun q => q = .p ∨ q = .vl) (fun t =>
      t.vl.toNat = (s.getA k).toNat % 64 ∧ s.Advanced t 1) ∧
    Completes (.writeVLAlt k) s (fun q => q = .p ∨ q = .vl) (fun t =>
      t.vl.toNat = (s.getA k).toNat % 64 ∧ s.Advanced t 1) ∧
    DeliversS (.readVM i) s i s.vm 1

/-- 035 with k = 0 to 3 clears and sets the two halt enables, each form its own bit only (R216, R217, R218, R219). -/
def Obligations.HaltEnables : Prop :=
  ∀ s : State,
    Completes .disableRangeHalt s (fun q => q = .p ∨ q = .enRangeHalt) (fun t =>
      t.st.enRangeHalt = false ∧ s.Advanced t 1) ∧
    Completes .enableRangeHalt s (fun q => q = .p ∨ q = .enRangeHalt) (fun t =>
      t.st.enRangeHalt = true ∧ s.Advanced t 1) ∧
    Completes .disableFloatHalt s (fun q => q = .p ∨ q = .enFloatHalt) (fun t =>
      t.st.enFloatHalt = false ∧ s.Advanced t 1) ∧
    Completes .enableFloatHalt s (fun q => q = .p ∨ q = .enFloatHalt) (fun t =>
      t.st.enFloatHalt = true ∧ s.Advanced t 1)

/-- 035 with k = 4 to 7, and 106 and 164 with k = 2 to 7, end in unspecifiedEncoding (D6, log entry 13) (R109, R220,
R299, R391, R433). -/
def Obligations.UnspecifiedEncodingsStop : Prop :=
  ∀ (s : State) (p : Parcel) (l : List Parcel),
    ((opcodeOf p = 0o035 ∧ 4 ≤ (fieldK p).toNat) ∨ (opcodeOf p = 0o106 ∧ 2 ≤ (fieldK p).toNat) ∨
      (opcodeOf p = 0o164 ∧ 2 ≤ (fieldK p).toNat)) →
    ∃ x, decode (p :: l) = .ok (x, l) ∧ exec x s = .fault .unspecifiedEncoding ∧
      ((∃ k, x = .unspecified035 k) ∨
        ∃ i j k, x = .unspecified106Low i j k ∨ x = .unspecified106High i j k ∨ x = .unspecified164Low i j k ∨
          x = .unspecified164High i j k)

/-- 050 to 053, 116, 117, 130 and 131 enter a constant or (A_k) into S_i (R239, R240, R241, R242, R307, R308, R329,
R330). -/
def Obligations.EntriesIntoS : Prop :=
  ∀ (s : State) (i k : Reg) (jk : Short) (c : Addr) (w : Word),
    DeliversS (.halfPosS i c) s i (BitVec.ofNat 64 c.toNat) 3 ∧
    DeliversS (.halfNegS i c) s i (BitVec.ofInt 64 (c.toNat - 2 ^ 32 : Int)) 3 ∧
    DeliversS (.leftS i c) s i (BitVec.ofNat 64 (c.toNat * 2 ^ 32)) 3 ∧
    DeliversS (.fullS i w) s i w 5 ∧
    DeliversS (.shortPosS i jk) s i (BitVec.ofNat 64 jk.toNat) 1 ∧
    DeliversS (.shortNegS i jk) s i (BitVec.ofInt 64 (jk.toNat - 64 : Int)) 1 ∧
    DeliversS (.moveAToS i k) s i (BitVec.ofNat 64 (s.getA k).toNat) 1 ∧
    DeliversS (.moveAToSSigned i k) s i (BitVec.ofInt 64 (s.getA k).toInt) 1

/-- 044, 046, 054, 056 load a Local Memory word into A_i or S_i; above 16383 or unwritten, a fault (log entries 12, 6)
(R56, R62, R63, R235, R237, R243, R245). -/
def Obligations.LocalLoads : Prop :=
  ∀ (s : State) (i k : Reg) (h : Parcel) (w : Word),
    (h.toNat ≤ 16383 → Memory.word? s.lm h.toNat = some w →
      DeliversA (.loadALocal i h) s i (BitVec.ofNat 32 w.toNat) 2 ∧ DeliversS (.loadSLocal i h) s i w 2) ∧
    ((s.getA k).toNat ≤ 16383 → Memory.word? s.lm (s.getA k).toNat = some w →
      DeliversA (.loadALocalReg i k) s i (BitVec.ofNat 32 w.toNat) 1 ∧ DeliversS (.loadSLocalReg i k) s i w 1) ∧
    (16383 < h.toNat → exec (.loadALocal i h) s = .fault .localAddress ∧
      exec (.loadSLocal i h) s = .fault .localAddress) ∧
    (16383 < (s.getA k).toNat → exec (.loadALocalReg i k) s = .fault .localAddress ∧
      exec (.loadSLocalReg i k) s = .fault .localAddress) ∧
    (h.toNat ≤ 16383 → Memory.word? s.lm h.toNat = none →
      exec (.loadALocal i h) s = .fault .unwrittenLocal ∧ exec (.loadSLocal i h) s = .fault .unwrittenLocal) ∧
    ((s.getA k).toNat ≤ 16383 → Memory.word? s.lm (s.getA k).toNat = none →
      exec (.loadALocalReg i k) s = .fault .unwrittenLocal ∧ exec (.loadSLocalReg i k) s = .fault .unwrittenLocal)

/-- 045, 047, 055, 057 store an A or S register into a Local Memory word; above 16383 they fault (D5, log entry 12)
(R62, R63, R236, R238, R244, R246). -/
def Obligations.LocalStores : Prop :=
  ∀ (s : State) (i j k : Reg) (h : Parcel),
    (h.toNat ≤ 16383 →
      StoresLocal (.storeALocal k h) s h.toNat (BitVec.ofInt 64 (s.getA k).toInt) 2 ∧
      StoresLocal (.storeSLocal j h) s h.toNat (s.getS j) 2) ∧
    ((s.getA k).toNat ≤ 16383 →
      StoresLocal (.storeALocalReg j k) s (s.getA k).toNat (BitVec.ofInt 64 (s.getA j).toInt) 1 ∧
      StoresLocal (.storeSLocalReg i k) s (s.getA k).toNat (s.getS i) 1) ∧
    (16383 < h.toNat → exec (.storeALocal k h) s = .fault .localAddress ∧
      exec (.storeSLocal j h) s = .fault .localAddress) ∧
    (16383 < (s.getA k).toNat → exec (.storeALocalReg j k) s = .fault .localAddress ∧
      exec (.storeSLocalReg i k) s = .fault .localAddress)

/-- 060, 062, 064, 066 load the Common Memory word at the relative address into S_i; outside the field, zero (log
entries 10, 14, 6) (R56, R261, R263, R265, R267, R422, R425, R427). -/
def Obligations.CommonLoads : Prop :=
  ∀ (s : State) (i j k : Reg) (c : Addr) (x : Instr) (rel : Addr) (n : Nat),
    (x = .loadSIndexed i j k ∧ rel = s.getA j + s.getA k ∧ n = 1) ∨
    (x = .loadSReg i k ∧ rel = s.getA k ∧ n = 1) ∨
    (x = .loadSDisp i k c ∧ rel = s.getA k + c ∧ n = 3) ∨
    (x = .loadSDirect i c ∧ rel = c ∧ n = 3) →
    (∀ w, s.Holds rel w → DeliversS x s i w n) ∧
    (¬ s.InRange rel → s.st.enRangeHalt = false → LoadsZero x s i n) ∧
    (¬ s.InRange rel → s.st.enRangeHalt = true → Halts x s fun t => t.st.rangeErr = true) ∧
    (s.Reaches rel → Memory.word? s.cm (s.wordOf rel) = none → exec x s = .fault .unwrittenCommon)

/-- 061, 063, 065, 067 store (S_i) into the Common Memory word at the relative address; outside the field, nothing
(entries 10, 14, 17) (R79, R262, R264, R266, R268, R422, R425, R427). -/
def Obligations.CommonStores : Prop :=
  ∀ (s : State) (i j k : Reg) (c : Addr) (x : Instr) (rel : Addr) (n : Nat),
    (x = .storeSIndexed i j k ∧ rel = s.getA j + s.getA k ∧ n = 1) ∨
    (x = .storeSReg i k ∧ rel = s.getA k ∧ n = 1) ∨
    (x = .storeSDisp i k c ∧ rel = s.getA k + c ∧ n = 3) ∨
    (x = .storeSDirect i c ∧ rel = c ∧ n = 3) →
    (s.Reaches rel → StoresCommon x s (s.wordOf rel) (s.getS i) n) ∧
    (¬ s.InRange rel → s.st.enRangeHalt = false → AbortsStore x s n) ∧
    (¬ s.InRange rel → s.st.enRangeHalt = true → Halts x s fun t => t.st.rangeErr = true)

/-- 070 and 072 load the elements of V_i; an element outside the field is zero (log entries 10, 14, 16, 6) (R37, R56,
R82, R269, R271, R422, R425, R427). -/
def Obligations.VectorLoads : Prop :=
  ∀ (s : State) (i j k : Reg) (x : Instr) (rel : Nat → Addr),
    (x = .loadVStride i j k ∧ rel = fun e => s.getA j + BitVec.ofNat 32 e * s.getA k) ∨
    (x = .gatherV i j k ∧ rel = fun e => s.getA k + if j = i then 0 else BitVec.ofNat 32 (s.elem j e).toNat) →
    ((∀ e, e < s.vlen → ¬ s.InRange (rel e) ∨ ∃ w, s.Holds (rel e) w) →
      ((s.st.enRangeHalt = false ∨ ∀ e, e < s.vlen → s.InRange (rel e)) → LoadsElements x s i s.vlen rel) ∧
      (s.st.enRangeHalt = true → (∃ e, e < s.vlen ∧ ¬ s.InRange (rel e)) →
        Halts x s fun t => t.st.rangeErr = true)) ∧
    ((∀ e, e < s.vlen → ¬ s.InRange (rel e) ∨ s.Reaches (rel e)) →
      (∃ e, e < s.vlen ∧ s.Reaches (rel e) ∧ Memory.word? s.cm (s.wordOf (rel e)) = none) →
      exec x s = .fault .unwrittenCommon)

/-- 071 and 073 store the elements of V_i; the last element sent to a word stays (D16; log entries 29, 10, 14, 16, 17)
(R79, R81, R82, R270, R272, R422, R425, R427). -/
def Obligations.VectorStores : Prop :=
  ∀ (s : State) (i j k : Reg) (x : Instr) (rel : Nat → Addr),
    (x = .storeVStride i j k ∧ rel = fun e => s.getA j + BitVec.ofNat 32 e * s.getA k) ∨
    (x = .scatterV i j k ∧ rel = fun e => s.getA k + BitVec.ofNat 32 (s.elem j e).toNat) →
    (∀ e, e < s.vlen → ¬ s.InRange (rel e) ∨ s.Reaches (rel e)) →
    ((s.st.enRangeHalt = false ∨ ∀ e, e < s.vlen → s.InRange (rel e)) → StoresElements x s i s.vlen rel) ∧
    (s.st.enRangeHalt = true → (∃ e, e < s.vlen ∧ ¬ s.InRange (rel e)) → Halts x s fun t => t.st.rangeErr = true)

/-- 074 and 075 move the elements of V_i from and to consecutive Local Memory words (past 16383, unwritten: entries
12, 6) (R56, R64, R273, R274). -/
def Obligations.LocalVectors : Prop :=
  ∀ (s : State) (i k : Reg) (w : Nat → Word),
    ((s.getA k).toNat + s.vlen ≤ 16384 →
      (∀ e, e < s.vlen → Memory.word? s.lm ((s.getA k).toNat + e) = some (w e)) →
      DeliversV (.loadVLocal i k) s i s.vlen w) ∧
    ((s.getA k).toNat + s.vlen ≤ 16384 →
      Completes (.storeVLocal i k) s
        (fun q => q = .p ∨ ∃ e b, e < s.vlen ∧ InWord ((s.getA k).toNat + e) b ∧ q = .localByte b) fun t =>
        (∀ e, e < s.vlen → Memory.word? t.lm ((s.getA k).toNat + e) = some (s.elem i e)) ∧ s.Advanced t 1) ∧
    (16384 < (s.getA k).toNat + s.vlen → exec (.storeVLocal i k) s = .fault .localAddress) ∧
    (16384 < (s.getA k).toNat + s.vlen →
      (∀ a, (s.getA k).toNat ≤ a → a ≤ 16383 → (Memory.word? s.lm a).isSome = true) →
      exec (.loadVLocal i k) s = .fault .localAddress) ∧
    ((∃ e, e < s.vlen ∧ (s.getA k).toNat + e ≤ 16383 ∧ Memory.word? s.lm ((s.getA k).toNat + e) = none) →
      exec (.loadVLocal i k) s = .fault .unwrittenLocal)

/-- 076, 077 and 134 to 137 change nothing but P (R275, R276, R333, R334, R335, R336). -/
def Obligations.PassesDoNothing : Prop :=
  ∀ (s : State) (x : Instr), x ∈ [.pass, .passAlt, .pass134, .pass135, .pass136, .pass137] → Passes x s

/-- 100 to 103 deliver the bitwise and, and-not, exclusive or and or of (S_j) and (S_k) to S_i (entry 35) (R291, R292,
R293, R294). -/
def Obligations.ScalarLogical : Prop :=
  ∀ (s : State) (i j k : Reg) (x : Instr) (op : Bool → Bool → Bool),
    (x = .andS i j k ∧ op = fun a b => a && b) ∨ (x = .andNotS i j k ∧ op = fun a b => a && !b) ∨
    (x = .xorS i j k ∧ op = fun a b => a ^^ b) ∨ (x = .orS i j k ∧ op = fun a b => a || b) →
    ∃ v, DeliversS x s i v 1 ∧ ∀ n, n < 64 → v.getLsbD n = op ((s.getS j).getLsbD n) ((s.getS k).getLsbD n)

/-- 104 to 107 deliver the sum, difference, population count, parity and leading zero count to S_i (R295, R296, R297,
R298, R300). -/
def Obligations.ScalarIntegers : Prop :=
  ∀ (s : State) (i j k : Reg),
    DeliversS (.addS i j k) s i (BitVec.ofNat 64 ((s.getS j).toNat + (s.getS k).toNat)) 1 ∧
    DeliversS (.subS i j k) s i (BitVec.ofInt 64 ((s.getS j).toNat - (s.getS k).toNat : Int)) 1 ∧
    DeliversS (.popcountS i j) s i
      (BitVec.ofNat 64 ((List.range 64).filter fun n => (s.getS j).getLsbD n).length) 1 ∧
    DeliversS (.parityS i j) s i
      (BitVec.ofNat 64 (((List.range 64).filter fun n => (s.getS j).getLsbD n).length % 2)) 1 ∧
    (s.getS j = 0 → DeliversS (.leadingZerosS i j) s i 64 1) ∧
    (∀ n, n < 64 → (s.getS j).getLsbD (63 - n) = true → (∀ m, m < n → (s.getS j).getLsbD (63 - m) = false) →
      DeliversS (.leadingZerosS i j) s i (BitVec.ofNat 64 n) 1)

/-- 110 to 113 shift S_i, or S_i with S_j, in an open-ended manner (R301, R302, R303, R304). -/
def Obligations.ScalarShifts : Prop :=
  ∀ (s : State) (i j k : Reg) (jk : Short) (n : Nat), n = (s.getA k).toNat →
    (jk.toNat = 0 → DeliversS (.shiftLeftS i jk) s i 0 1) ∧
    (0 < jk.toNat → DeliversS (.shiftLeftS i jk) s i (BitVec.ofNat 64 ((s.getS i).toNat * 2 ^ (64 - jk.toNat))) 1) ∧
    DeliversS (.shiftRightS i jk) s i (BitVec.ofNat 64 ((s.getS i).toNat / 2 ^ jk.toNat)) 1 ∧
    (n = 0 → DeliversS (.doubleShiftLeftS i j k) s i (s.getS i) 1 ∧
      DeliversS (.doubleShiftRightS i j k) s i (s.getS i) 1) ∧
    (0 < n → n < 64 →
      DeliversS (.doubleShiftLeftS i j k) s i (s.getS i <<< n ||| s.getS j >>> (64 - n)) 1 ∧
      DeliversS (.doubleShiftRightS i j k) s i (s.getS i >>> n ||| s.getS j <<< (64 - n)) 1) ∧
    (n = 64 → DeliversS (.doubleShiftLeftS i j k) s i (s.getS j) 1 ∧
      DeliversS (.doubleShiftRightS i j k) s i (s.getS j) 1) ∧
    (64 < n → n < 128 →
      DeliversS (.doubleShiftLeftS i j k) s i (s.getS j <<< (n - 64)) 1 ∧
      DeliversS (.doubleShiftRightS i j k) s i (s.getS j >>> (n - 64)) 1) ∧
    (128 ≤ n → DeliversS (.doubleShiftLeftS i j k) s i 0 1 ∧ DeliversS (.doubleShiftRightS i j k) s i 0 1)

/-- 115 copies the clock to S_i; a step that executes it reads a clock that has counted on (log entries 19, 41) (R306,
R436). -/
def Obligations.ReadClock : Prop :=
  ∀ (s : State) (i : Reg),
    DeliversS (.readRT i) s i s.rtc 1 ∧
    ∀ (t : State) (l rest : List Parcel), s.run = .running → s.fieldOk = true → s.fetch = .ok l →
      decode l = .ok (.readRT i, rest) → step s = .next t →
      t.getS i = t.rtc ∧ (s.rtc.toNat < 2 ^ 64 - 1 → s.rtc.toNat < (t.getS i).toNat)

/-- 120 to 127, 132, 133 deliver the result word of their function to S_i, and with the halt disabled do no more
(entries 14, 16) (R142, R321, R322, R323, R324, R325, R327, R331, R332, R423, R425, R427). -/
def Obligations.FloatScalars : Prop :=
  ∀ (s : State) (i j k : Reg),
    DeliversS (.floatS i k) s i (fFloat (s.getS k)).1 1 ∧
    FloatToS (.faddS i j k) s i (fAdd (s.getS j) (s.getS k)) ∧
    FloatToS (.fsubS i j k) s i (fSub (s.getS j) (s.getS k)) ∧
    FloatToS (.fixS i k) s i (fFix (s.getS k)) ∧
    FloatToS (.fmulS i j k) s i (fMul (s.getS j) (s.getS k)) ∧
    FloatToS (.fmulSAlt i j k) s i (fMul (s.getS j) (s.getS k)) ∧
    FloatToS (.recipIterS i j k) s i (fRecipIter (s.getS j) (s.getS k)) ∧
    FloatToS (.sqrtIterS i j k) s i (fRsqrtIter (s.getS j) (s.getS k)) ∧
    FloatToS (.recipS i j) s i (fRecip (s.getS j)) ∧
    FloatToS (.rsqrtS i j) s i (fRsqrt (s.getS j)) ∧
    FloatHaltS (.faddS i j k) s (fAdd (s.getS j) (s.getS k)) ∧
    FloatHaltS (.fsubS i j k) s (fSub (s.getS j) (s.getS k)) ∧
    FloatHaltS (.fixS i k) s (fFix (s.getS k)) ∧
    FloatHaltS (.fmulS i j k) s (fMul (s.getS j) (s.getS k)) ∧
    FloatHaltS (.fmulSAlt i j k) s (fMul (s.getS j) (s.getS k)) ∧
    FloatHaltS (.recipIterS i j k) s (fRecipIter (s.getS j) (s.getS k)) ∧
    FloatHaltS (.sqrtIterS i j k) s (fRsqrtIter (s.getS j) (s.getS k)) ∧
    FloatHaltS (.recipS i j) s (fRecip (s.getS j)) ∧
    FloatHaltS (.rsqrtS i j) s (fRsqrt (s.getS j))

/-- The four instructions of the square root algorithm leave its word in S5 (its accuracy is a premise: log entry 44)
(R152, R325, R328, R332). -/
def Obligations.SquareRootSequence : Prop :=
  ∀ s : State, s.st.enFloatHalt = false →
    ∃ t u v w, exec (.rsqrtS 2 1) s = .next t ∧ exec (.fmulS 3 1 2) t = .next u ∧
      exec (.sqrtIterS 4 2 3) u = .next v ∧ exec (.fmulS 5 3 4) v = .next w ∧
      w.getS 5 = sqrtAlgorithm (s.getS 1) ∧ s.Advanced w 4 ∧
      Frame s w fun q => q = .p ∨ q = .s 2 ∨ q = .s 3 ∨ q = .s 4 ∨ q = .s 5

/-- A vector source that is the destination reads as a vector of zeros, whatever it holds (R37, R471). -/
def Obligations.VectorSourceIsDestination : Prop :=
  ∀ (s : State) (i j k z : Reg) (f : Nat → Word),
    (∀ x, x ∈ [.gatherV i j k, .andSV i j k, .andVV i j k, .xorSV i j k, .xorVV i j k, .orSV i j k, .orVV i j k,
        .mergeSV i j k, .mergeVV i j k, .shiftLeftV i j k, .shiftRightV i j k, .doubleShiftLeftV i j k,
        .doubleShiftRightV i j k, .fmulSV i j k, .fmulVV i j k, .recipIterVV i j k, .sqrtIterVV i j k, .addSV i j k,
        .addVV i j k, .subSV i j k, .subVV i j k, .popcountV i j, .parityV i j, .leadingZerosV i j, .recipV i k,
        .rsqrtV i k, .faddSV i j k, .faddVV i j k, .fsubSV i j k, .fsubVV i j k, .fixV i k, .floatV i k] →
      exec x (s.setV i s.vlen f) = exec x s) ∧
    (z ≠ i → (∀ e, e < 64 → s.elem z e = 0) →
      (∀ c, c ∈ [Instr.gatherV, Instr.andVV, Instr.xorVV, Instr.orVV, Instr.mergeVV, Instr.shiftLeftV,
        Instr.shiftRightV, Instr.doubleShiftLeftV, Instr.doubleShiftRightV, Instr.fmulVV,
        Instr.recipIterVV, Instr.sqrtIterVV, Instr.addVV, Instr.subVV, Instr.faddVV, Instr.fsubVV] →
        exec (c i i k) s = exec (c i z k) s) ∧
      (∀ c, c ∈ [Instr.andSV, Instr.andVV, Instr.xorSV, Instr.xorVV, Instr.orSV, Instr.orVV, Instr.mergeSV,
        Instr.mergeVV, Instr.fmulSV, Instr.fmulVV, Instr.recipIterVV, Instr.sqrtIterVV, Instr.addSV,
        Instr.addVV, Instr.subSV, Instr.subVV, Instr.faddSV, Instr.faddVV, Instr.fsubSV, Instr.fsubVV] →
        exec (c i j i) s = exec (c i j z) s) ∧
      (∀ c, c ∈ [Instr.popcountV, Instr.parityV, Instr.leadingZerosV, Instr.recipV, Instr.rsqrtV, Instr.fixV,
        Instr.floatV] → exec (c i i) s = exec (c i z) s)) ∧
    (∀ x, x ∈ [.addVV i i i, .andVV i i i, .orVV i i i, .xorVV i i i] → DeliversV x s i s.vlen fun _ => 0)

/-- 140 to 147 deliver logical results and merges under VM to the elements of V_i (log entry 35) (R34, R351, R352,
R353, R354, R355, R356, R357, R358). -/
def Obligations.VectorLogical : Prop :=
  ∀ (s : State) (i j k : Reg),
    DeliversV (.andSV i j k) s i s.vlen (fun e => s.getS j &&& (if k = i then 0 else s.elem k e)) ∧
    DeliversV (.andVV i j k) s i s.vlen (fun e =>
      (if j = i then 0 else s.elem j e) &&& (if k = i then 0 else s.elem k e)) ∧
    DeliversV (.xorSV i j k) s i s.vlen (fun e => s.getS j ^^^ (if k = i then 0 else s.elem k e)) ∧
    DeliversV (.xorVV i j k) s i s.vlen (fun e =>
      (if j = i then 0 else s.elem j e) ^^^ (if k = i then 0 else s.elem k e)) ∧
    DeliversV (.orSV i j k) s i s.vlen (fun e => s.getS j ||| (if k = i then 0 else s.elem k e)) ∧
    DeliversV (.orVV i j k) s i s.vlen (fun e =>
      (if j = i then 0 else s.elem j e) ||| (if k = i then 0 else s.elem k e)) ∧
    DeliversV (.mergeSV i j k) s i s.vlen (fun e =>
      if s.vm.getLsbD (63 - e) then s.getS j else (if k = i then 0 else s.elem k e)) ∧
    DeliversV (.mergeVV i j k) s i s.vlen (fun e =>
      if s.vm.getLsbD (63 - e) then (if j = i then 0 else s.elem j e) else (if k = i then 0 else s.elem k e))

/-- 150 and 151 shift the elements of V_j left and right by (A_k) with zero fill into V_i (R359, R360). -/
def Obligations.VectorShifts : Prop :=
  ∀ (s : State) (i j k : Reg) (n : Nat) (v : Nat → Word), n = (s.getA k).toNat →
    v = (fun e => (if j = i then 0 else s.elem j e)) →
    DeliversV (.shiftLeftV i j k) s i s.vlen (fun e => BitVec.ofNat 64 ((v e).toNat * 2 ^ n)) ∧
    DeliversV (.shiftRightV i j k) s i s.vlen (fun e => BitVec.ofNat 64 ((v e).toNat / 2 ^ n))

/-- 152 and 153 shift each element of V_j joined with its neighbour into V_i (last element: D18, log entry 38) (R361,
R362). -/
def Obligations.VectorDoubleShifts : Prop :=
  ∀ (s : State) (i j k : Reg) (n : Nat) (v : Nat → Word), n = (s.getA k).toNat →
    v = (fun e => (if j = i then 0 else s.elem j e)) →
    DeliversV (.doubleShiftLeftV i j k) s i s.vlen (fun e =>
      BitVec.ofNat 64 (((v e).toNat * 2 ^ 64 + if e + 1 < s.vlen then (v (e + 1)).toNat else 0) * 2 ^ n / 2 ^ 64)) ∧
    DeliversV (.doubleShiftRightV i j k) s i s.vlen (fun e =>
      BitVec.ofNat 64 (((if e = 0 then 0 else (v (e - 1)).toNat) * 2 ^ 64 + (v e).toNat) / 2 ^ n))

/-- 160 to 165 deliver sums, differences and counts to the elements of V_i (R385, R386, R387, R388, R389, R390,
R392). -/
def Obligations.VectorIntegers : Prop :=
  ∀ (s : State) (i j k : Reg) (a b : Nat → Word),
    a = (fun e => (if j = i then 0 else s.elem j e)) →
    b = (fun e => (if k = i then 0 else s.elem k e)) →
    DeliversV (.addSV i j k) s i s.vlen (fun e => s.getS j + b e) ∧
    DeliversV (.addVV i j k) s i s.vlen (fun e => a e + b e) ∧
    DeliversV (.subSV i j k) s i s.vlen (fun e => s.getS j - b e) ∧
    DeliversV (.subVV i j k) s i s.vlen (fun e => a e - b e) ∧
    DeliversV (.popcountV i j) s i s.vlen (fun e =>
      BitVec.ofNat 64 ((List.range 64).filter fun n => (a e).getLsbD n).length) ∧
    DeliversV (.parityV i j) s i s.vlen (fun e =>
      BitVec.ofNat 64 (((List.range 64).filter fun n => (a e).getLsbD n).length % 2)) ∧
    DeliversV (.leadingZerosV i j) s i s.vlen (fun e =>
      BitVec.ofNat 64 ((List.range 64).takeWhile fun n => !(a e).getLsbD (63 - n)).length)

/-- 154 to 157, 166, 167, 170 to 175 deliver the result words of their function to the elements of V_i (log entries
14, 16) (R142, R380, R381, R383, R393, R395, R397, R399, R400, R423, R425, R427). -/
def Obligations.FloatVectors : Prop :=
  ∀ (s : State) (i j k : Reg) (a b : Nat → Word),
    a = (fun e => (if j = i then 0 else s.elem j e)) →
    b = (fun e => (if k = i then 0 else s.elem k e)) →
    DeliversV (.floatV i k) s i s.vlen (fun e => (fFloat (b e)).1) ∧
    FloatToV (.fmulSV i j k) s i (fun e => fMul (s.getS j) (b e)) ∧
    FloatToV (.fmulVV i j k) s i (fun e => fMul (a e) (b e)) ∧
    FloatToV (.recipIterVV i j k) s i (fun e => fRecipIter (a e) (b e)) ∧
    FloatToV (.sqrtIterVV i j k) s i (fun e => fRsqrtIter (a e) (b e)) ∧
    FloatToV (.recipV i k) s i (fun e => fRecip (b e)) ∧
    FloatToV (.rsqrtV i k) s i (fun e => fRsqrt (b e)) ∧
    FloatToV (.faddSV i j k) s i (fun e => fAdd (s.getS j) (b e)) ∧
    FloatToV (.faddVV i j k) s i (fun e => fAdd (a e) (b e)) ∧
    FloatToV (.fsubSV i j k) s i (fun e => fSub (s.getS j) (b e)) ∧
    FloatToV (.fsubVV i j k) s i (fun e => fSub (a e) (b e)) ∧
    FloatToV (.fixV i k) s i (fun e => fFix (b e)) ∧
    FloatHaltV (.fmulSV i j k) s (fun e => fMul (s.getS j) (b e)) ∧
    FloatHaltV (.fmulVV i j k) s (fun e => fMul (a e) (b e)) ∧
    FloatHaltV (.recipIterVV i j k) s (fun e => fRecipIter (a e) (b e)) ∧
    FloatHaltV (.sqrtIterVV i j k) s (fun e => fRsqrtIter (a e) (b e)) ∧
    FloatHaltV (.recipV i k) s (fun e => fRecip (b e)) ∧
    FloatHaltV (.rsqrtV i k) s (fun e => fRsqrt (b e)) ∧
    FloatHaltV (.faddSV i j k) s (fun e => fAdd (s.getS j) (b e)) ∧
    FloatHaltV (.faddVV i j k) s (fun e => fAdd (a e) (b e)) ∧
    FloatHaltV (.fsubSV i j k) s (fun e => fSub (s.getS j) (b e)) ∧
    FloatHaltV (.fsubVV i j k) s (fun e => fSub (a e) (b e)) ∧
    FloatHaltV (.fixV i k) s (fun e => fFix (b e))

/-- 176 and 177 deliver the multiples of the stride that the mask selects (D17, log entry 28) (R401, R402, R409,
R410). -/
def Obligations.CompressedIota : Prop :=
  ∀ (s : State) (i j k : Reg) (x : Instr) (ones : Nat → Nat) (d : Nat), x = .iota i j k ∨ x = .iotaAlt i j k →
    ones = (fun n => ((List.range n).filter fun t => (s.getS j).getLsbD (63 - t)).length) →
    d = (s.getS k).toNat % 2 ^ 32 →
    Completes x s (fun q => q = .p ∨ ∃ e, e < ones 64 ∧ q = .v i e) fun t =>
      (∀ n, n < 64 → (s.getS j).getLsbD (63 - n) = true →
        (t.elem i (ones n)).toNat % 2 ^ 32 = n * d % 2 ^ 32 ∧
        (n * d < 2 ^ 31 → (t.elem i (ones n)).toNat = n * d)) ∧ s.Advanced t 1

/-- The special cases of FAdd and FSub (log entries 20, 21; FAdd-comm and FSub-neg are inferred) (R139, R141, R142,
R144, R145, R155). -/
def Obligations.FloatSums : Prop :=
  ∀ (a b : Word) (r : Word × Bool), r = fAdd a b ∨ r = fSub a b →
    (isOverflowed a = true ∨ isOverflowed b = true → r.2 = true ∧ floatExp r.1 = 0o60000) ∧
    (isOverflowed a = false → isOverflowed b = false →
      (r.1 = 0 ∧ r.2 = false) ∨ floatExp r.1 = 0o60000 ∨
        (isNormalized r.1 = true ∧ isOverflowed r.1 = false ∧ r.2 = false)) ∧
    (floatExp a < 0o57777 → floatExp b < 0o57777 → r.2 = false ∧ isOverflowed r.1 = false) ∧
    fAdd a b = fAdd b a ∧
    (isInRange b = true → floatCoef b ≠ 0 → fSub a b = fAdd a (b ^^^ 0x8000000000000000))

/-- FAdd is exact where nothing is shifted out and the sum is a normalized number or zero (inferred; log entry 21)
(R137, R139, R144). -/
def Obligations.FloatSumExact : Prop :=
  ∀ a b r : Word, isOverflowed a = false → isOverflowed b = false →
    NoBitLost (flushUnderflow a) (flushUnderflow b) → NoBitLost (flushUnderflow b) (flushUnderflow a) →
    (isInRange r = true → isNormalized r = true → floatValue r = operandValue a + operandValue b →
      fAdd a b = (r, false)) ∧
    (operandValue a + operandValue b = 0 → fAdd a b = (0, false))

/-- The special cases, exponents and exact products of FMul (inferred: FMul-comm, FMul-exact, case 4 before case 3;
entries 22 to 25) (R139, R140, R141, R146, R155). -/
def Obligations.FloatProducts : Prop :=
  ∀ a b : Word,
    fMul a b = fMul b a ∧
    ((fMul a b).2 = true ↔
      isOverflowed a = true ∨ isOverflowed b = true ∨ 0o60000 + 0o40000 ≤ floatExp a + floatExp b) ∧
    ((fMul a b).2 = true → floatExp (fMul a b).1 = 0o60001) ∧
    (floatExp a = 0 → floatExp b = 0 → floatExp (fMul a b).1 = 0) ∧
    (¬ (floatExp a = 0 ∧ floatExp b = 0) → isOverflowed a = false → isOverflowed b = false →
      isUnderflowed a = true ∨ isUnderflowed b = true ∨ floatExp a + floatExp b < 0o20000 + 0o40000 →
      fMul a b = (0, false)) ∧
    (isInRange a = true → isInRange b = true →
      0o20000 + 0o40000 ≤ floatExp a + floatExp b → floatExp a + floatExp b < 0o60000 + 0o40000 →
      (floatValue (fMul a b).1 = floatValue a * floatValue b ∨
        floatExp (fMul a b).1 + 0o40000 + (if floatCoef a * floatCoef b < 2 ^ 95 then 1 else 0) =
          floatExp a + floatExp b) ∧
      (∀ r : Word, isInRange r = true → floatValue r = floatValue a * floatValue b →
        floatCoef a * floatCoef b % 2 ^ 40 = 0 → floatValue (fMul a b).1 = floatValue r) ∧
      (isNormalized a = true → isNormalized b = true →
        isNormalized (fMul a b).1 = true ∧
        floatExp (fMul a b).1 + 0o40000 + (if floatCoef a * floatCoef b < 2 ^ 95 then 1 else 0) =
          floatExp a + floatExp b ∧
        ∀ r : Word, isNormalized r = true → floatValue r = floatValue a * floatValue b → fMul a b = (r, false)))

/-- The special cases of FRecip, FRsqrt and the iterations (FRsqrt of a negative or tiny word: entry 42; iterations,
inferred: 26) (R141, R148, R149, R150, R155, R473). -/
def Obligations.FloatApproximations : Prop :=
  ∀ a b : Word,
    ((fRecip a).2 = true ↔ isOverflowed a = true ∨ isUnderflowed a = true) ∧
    ((fRecip a).2 = true → floatExp (fRecip a).1 = 0o60002) ∧
    ((fRsqrt a).2 = true ↔ isOverflowed a = true ∨ floatSign a = true) ∧
    ((fRsqrt a).2 = true → floatExp (fRsqrt a).1 = 0o60004) ∧
    (floatExp a ≤ 3 → floatExp (fRsqrt a).1 = 0o60004) ∧
    (floatExp a ≤ 3 → floatSign a = false → (fRsqrt a).2 = false) ∧
    (∀ r, r = fRecipIter a b ∨ r = fRsqrtIter a b →
      (r.2 = true ↔
        isOverflowed a = true ∨ isOverflowed b = true ∨ 0o60000 + 0o40000 ≤ floatExp a + floatExp b)) ∧
    (b = (fRecip a).1 →
      ((fRecip a).2 = true → (fRecipIter a b).2 = true) ∧
      ((fRecipIter a b).2 = false ∨ floatExp (fRecipIter a b).1 = 0o60001) ∧
      (0o20000 + 0o40000 ≤ floatExp a + floatExp b ∨ (fRecipIter a b).1 = 0)) ∧
    (∀ x, a = (fRsqrt x).1 → b = (fMul x a).1 →
      (isOverflowed x = true ∨ floatSign x = true ∨ floatExp x ≤ 3 → (fRsqrtIter a b).2 = true) ∧
      ((fRsqrtIter a b).2 = false ∨ floatExp (fRsqrtIter a b).1 = 0o60001) ∧
      (0o20000 + 0o40000 ≤ floatExp a + floatExp b ∨ (fRsqrtIter a b).1 = 0))

/-- FFix and FFlt convert between integers and floating-point values (inferred parts: log entry 27) (R137, R153, R154,
R155). -/
def Obligations.FloatConversions : Prop :=
  ∀ a : Word,
    (∀ n : Int, isInRange a = true → floatValue a = n → |n| < 2 ^ 47 → fFix a = (BitVec.ofInt 64 n, false)) ∧
    (isUnderflowed a = true → fFix a = (0, false)) ∧
    (isOverflowed a = true ∨ (isInRange a = true ∧ 2 ^ 48 ≤ |floatValue a|) → fFix a = (0, true)) ∧
    (∀ n : Int, isInRange a = true → (n : Rat) < floatValue a → floatValue a < (n + 1 : Int) →
      -2 ^ 47 < n → n < 2 ^ 47 - 1 → fFix a = (BitVec.ofInt 64 n, false) ∨ fFix a = (BitVec.ofInt 64 (n + 1), false)) ∧
    (fFloat a).2 = false ∧
    (-2 ^ 47 ≤ a.toInt → a.toInt < 2 ^ 47 →
      (a = 0 → (fFloat a).1 = 0) ∧
      (a ≠ 0 → isInRange (fFloat a).1 = true ∧ isNormalized (fFloat a).1 = true ∧ floatValue (fFloat a).1 = a.toInt))
end

