-- ==== Sys2Proof/Laws/Decode.lean ====
section
/-!
SUPPORT. The fields of a parcel that was put together from them, and what `decode` answers.
-/

namespace Sys2Proof

@[simp] theorem opcodeOf_firstParcel (f : BitVec 7) (i j k : Reg) : opcodeOf (firstParcel f i j k) = f := by
  ext n hn
  simp only [opcodeOf, firstParcel, BitVec.getElem_extractLsb', BitVec.getLsbD_append]
  grind

@[simp] theorem fieldI_firstParcel (f : BitVec 7) (i j k : Reg) : fieldI (firstParcel f i j k) = i := by
  ext n hn
  simp only [fieldI, firstParcel, BitVec.getElem_extractLsb', BitVec.getLsbD_append]
  grind

@[simp] theorem fieldJ_firstParcel (f : BitVec 7) (i j k : Reg) : fieldJ (firstParcel f i j k) = j := by
  ext n hn
  simp only [fieldJ, firstParcel, BitVec.getElem_extractLsb', BitVec.getLsbD_append]
  grind

@[simp] theorem fieldK_firstParcel (f : BitVec 7) (i j k : Reg) : fieldK (firstParcel f i j k) = k := by
  ext n hn
  simp only [fieldK, firstParcel, BitVec.getElem_extractLsb', BitVec.getLsbD_append]
  grind

@[simp] theorem opcodeOf_firstParcelJK (f : BitVec 7) (i : Reg) (jk : Short) :
    opcodeOf (firstParcelJK f i jk) = f := by
  ext n hn
  simp only [opcodeOf, firstParcelJK, BitVec.getElem_extractLsb', BitVec.getLsbD_append]
  grind

@[simp] theorem fieldI_firstParcelJK (f : BitVec 7) (i : Reg) (jk : Short) : fieldI (firstParcelJK f i jk) = i := by
  ext n hn
  simp only [fieldI, firstParcelJK, BitVec.getElem_extractLsb', BitVec.getLsbD_append]
  grind

@[simp] theorem fieldJK_firstParcelJK (f : BitVec 7) (i : Reg) (jk : Short) :
    fieldJK (firstParcelJK f i jk) = jk := by
  ext n hn
  simp only [fieldJK, firstParcelJK, BitVec.getElem_extractLsb', BitVec.getLsbD_append]
  grind

/-- A 32-bit constant put together from its two parcels. -/
@[simp] theorem constant32_parcels (c : Addr) : constant32 (c.extractLsb' 16 16) (c.extractLsb' 0 16) = c := by
  rw [constant32, BitVec.extractLsb'_append_extractLsb'_eq_extractLsb' (by omega)]
  simp

/-- A 64-bit constant put together from its four parcels. -/
@[simp] theorem constant64_parcels (c : Word) :
    constant64 (c.extractLsb' 48 16) (c.extractLsb' 32 16) (c.extractLsb' 16 16) (c.extractLsb' 0 16) = c := by
  rw [constant64, BitVec.extractLsb'_append_extractLsb'_eq_extractLsb' (by omega),
    BitVec.extractLsb'_append_extractLsb'_eq_extractLsb' (by omega),
    BitVec.extractLsb'_append_extractLsb'_eq_extractLsb' (by omega)]
  simp

/-- The length of an instruction depends on the operation code alone (30_encoding.md R103). -/
theorem parcelCount_congr {p q : Parcel} (h : opcodeOf p = opcodeOf q) : parcelCount p = parcelCount q := by
  simp only [parcelCount, h]

/-- A first parcel counts itself. -/
theorem one_le_parcelCount (p : Parcel) : 1 ≤ parcelCount p := by
  unfold parcelCount
  split <;> decide

/-- What `decode` answers where enough parcels are there. -/
theorem decode_cons_of_le {p : Parcel} {rest : List Parcel} (h : parcelCount p ≤ rest.length + 1) :
    decode (p :: rest) =
      .ok (decodeParcels p (rest.getD 0 0) (rest.getD 1 0) (rest.getD 2 0) (rest.getD 3 0),
        rest.drop (parcelCount p - 1)) := by
  simp only [decode, if_neg (Nat.not_lt.2 h)]

/-- What `decode` has decoded where it answers an instruction. -/
theorem decode_eq_ok {l rest : List Parcel} {i : Instr} (h : decode l = .ok (i, rest)) :
    ∃ p t, l = p :: t ∧ parcelCount p ≤ t.length + 1 ∧
      i = decodeParcels p (t.getD 0 0) (t.getD 1 0) (t.getD 2 0) (t.getD 3 0) ∧
      rest = t.drop (parcelCount p - 1) := by
  cases l with
  | nil => cases h
  | cons p t =>
    simp only [decode] at h
    split at h
    · cases h
    · next hn =>
      cases h
      exact ⟨p, t, rfl, by omega, rfl, rfl⟩

end Sys2Proof
end

