-- ==== Sys2Proof/Laws/Memory.lean ====
section
/-!
SUPPORT. The laws of a memory: a write is read back, leaves every other word alone, and keeps the canonical form.
-/

namespace Sys2Proof.Machine

/-! ## Bytes -/

@[simp] theorem Memory.byte?_nil (x : Nat) : Memory.byte? [] x = none := rfl

theorem Memory.byte?_cons (c : Host.Cell) (m : Memory) (x : Nat) :
    Memory.byte? (c :: m) x = if c.1 = x then some c.2 else Memory.byte? m x := by
  simp only [Memory.byte?, cond_eq_ite, Nat.beq_eq]

theorem Memory.byte?_append (m n : Memory) (x : Nat) :
    Memory.byte? (m ++ n) x = (Memory.byte? m x).or (Memory.byte? n x) := by
  induction m with
  | nil => simp
  | cons c m ih =>
    simp only [List.cons_append, Memory.byte?_cons, ih]
    split <;> simp

theorem Memory.byte?_below (b : Nat) (m : Memory) (x : Nat) :
    Memory.byte? (Memory.below b m) x = if x < b then Memory.byte? m x else none := by
  induction m with
  | nil => simp [Memory.below]
  | cons c m ih =>
    simp only [Memory.below, cond_eq_ite, Nat.blt_eq]
    split <;> simp only [Memory.byte?_cons, ih] <;> grind

theorem Memory.byte?_atLeast (b : Nat) (m : Memory) (x : Nat) :
    Memory.byte? (Memory.atLeast b m) x = if b ≤ x then Memory.byte? m x else none := by
  induction m with
  | nil => simp [Memory.atLeast]
  | cons c m ih =>
    simp only [Memory.atLeast, cond_eq_ite, Nat.ble_eq]
    split <;> simp only [Memory.byte?_cons, ih] <;> grind

theorem Memory.byte?_skip (b : Nat) (m : Memory) (x : Nat) (h : b ≤ x) :
    Memory.byte? (Memory.skip b m) x = Memory.byte? m x := by
  induction m with
  | nil => rfl
  | cons c m ih =>
    simp only [Memory.skip, cond_eq_ite, Nat.blt_eq]
    split
    · rw [ih, Memory.byte?_cons, if_neg (by omega)]
    · rfl

/-- Byte `n` of a word, most significant first. -/
def wordByte (w : Word) (n : Nat) : Byte := w.extractLsb' (56 - 8 * n) 8

theorem Memory.byte?_wordCells (a : Nat) (w : Word) (x : Nat) :
    Memory.byte? (wordCells a w) x =
      if wordBase a ≤ x ∧ x < wordBase a + 8 then some (wordByte w (x - wordBase a)) else none := by
  by_cases h : wordBase a ≤ x ∧ x < wordBase a + 8
  · rw [if_pos h]
    obtain ⟨n, rfl⟩ : ∃ n, x = wordBase a + n := ⟨x - wordBase a, by omega⟩
    have hn : n < 8 := by omega
    have : n = 0 ∨ n = 1 ∨ n = 2 ∨ n = 3 ∨ n = 4 ∨ n = 5 ∨ n = 6 ∨ n = 7 := by omega
    rcases this with rfl | rfl | rfl | rfl | rfl | rfl | rfl | rfl <;>
      simp [wordCells, Memory.byte?_cons, wordByte]
  · rw [if_neg h]
    simp only [wordCells, Memory.byte?_cons, Memory.byte?_nil]
    repeat rw [if_neg (by omega)]

/-- Every byte after a write of a word: those of the word are its bytes, the others are as before. -/
theorem Memory.byte?_writeWord (m : Memory) (a : Nat) (w : Word) (x : Nat) :
    Memory.byte? (Memory.writeWord m a w) x =
      if wordBase a ≤ x ∧ x < wordBase a + 8 then some (wordByte w (x - wordBase a)) else Memory.byte? m x := by
  simp only [Memory.writeWord, Memory.byte?_append, Memory.byte?_below, Memory.byte?_atLeast,
    Memory.byte?_wordCells]
  grind

/-! ## Words -/

/-- A word is its eight bytes. -/
theorem Memory.word?_eq_bytes (m : Memory) (a : Nat) :
    Memory.word? m a =
      match Memory.byte? m (wordBase a), Memory.byte? m (wordBase a + 1), Memory.byte? m (wordBase a + 2),
        Memory.byte? m (wordBase a + 3), Memory.byte? m (wordBase a + 4), Memory.byte? m (wordBase a + 5),
        Memory.byte? m (wordBase a + 6), Memory.byte? m (wordBase a + 7) with
      | some b0, some b1, some b2, some b3, some b4, some b5, some b6, some b7 =>
        some (b0 ++ b1 ++ b2 ++ b3 ++ b4 ++ b5 ++ b6 ++ b7)
      | _, _, _, _, _, _, _, _ => none := by
  simp only [Memory.word?]
  rw [Memory.byte?_skip _ _ _ (Nat.le_refl _), Memory.byte?_skip _ _ _ (Nat.le_add_right _ 1),
    Memory.byte?_skip _ _ _ (Nat.le_add_right _ 2), Memory.byte?_skip _ _ _ (Nat.le_add_right _ 3),
    Memory.byte?_skip _ _ _ (Nat.le_add_right _ 4), Memory.byte?_skip _ _ _ (Nat.le_add_right _ 5),
    Memory.byte?_skip _ _ _ (Nat.le_add_right _ 6), Memory.byte?_skip _ _ _ (Nat.le_add_right _ 7)]
  all_goals rfl

/-- Memories that agree on the bytes of a word agree on the word. -/
theorem Memory.word?_congr {m n : Memory} {a : Nat}
    (h : ∀ x, wordBase a ≤ x → x < wordBase a + 8 → Memory.byte? m x = Memory.byte? n x) :
    Memory.word? m a = Memory.word? n a := by
  rw [Memory.word?_eq_bytes, Memory.word?_eq_bytes, h _ (by omega) (by omega), h _ (by omega) (by omega),
    h _ (by omega) (by omega), h _ (by omega) (by omega), h _ (by omega) (by omega), h _ (by omega) (by omega),
    h _ (by omega) (by omega), h _ (by omega) (by omega)]

theorem wordByte_append (w : Word) :
    wordByte w 0 ++ wordByte w 1 ++ wordByte w 2 ++ wordByte w 3 ++ wordByte w 4 ++ wordByte w 5 ++ wordByte w 6
      ++ wordByte w 7 = w := by
  simp only [wordByte]
  rw [BitVec.extractLsb'_append_extractLsb'_eq_extractLsb' (by omega),
    BitVec.extractLsb'_append_extractLsb'_eq_extractLsb' (by omega),
    BitVec.extractLsb'_append_extractLsb'_eq_extractLsb' (by omega),
    BitVec.extractLsb'_append_extractLsb'_eq_extractLsb' (by omega),
    BitVec.extractLsb'_append_extractLsb'_eq_extractLsb' (by omega),
    BitVec.extractLsb'_append_extractLsb'_eq_extractLsb' (by omega),
    BitVec.extractLsb'_append_extractLsb'_eq_extractLsb' (by omega)]
  simp

/-- A word that was written is read back. -/
@[simp] theorem Memory.word?_writeWord_same (m : Memory) (a : Nat) (w : Word) :
    Memory.word? (Memory.writeWord m a w) a = some w := by
  rw [Memory.word?_eq_bytes]
  simp only [Memory.byte?_writeWord]
  simp [wordByte_append]

/-- A write leaves every other word alone. -/
theorem Memory.word?_writeWord_ne (m : Memory) {a b : Nat} (w : Word) (h : b ≠ a) :
    Memory.word? (Memory.writeWord m a w) b = Memory.word? m b := by
  apply Memory.word?_congr
  intro x h1 h2
  rw [Memory.byte?_writeWord, if_neg]
  simp only [wordBase] at *
  omega

theorem Memory.word?_writeWord (m : Memory) (a b : Nat) (w : Word) :
    Memory.word? (Memory.writeWord m a w) b = if b = a then some w else Memory.word? m b := by
  split
  · next h => rw [h, Memory.word?_writeWord_same]
  · next h => exact Memory.word?_writeWord_ne m w h

/-! ## The canonical form -/

theorem Memory.wf_iff_pairwise (m : Memory) : Memory.wf m = true ↔ m.Pairwise fun c d => c.1 < d.1 := by
  induction m with
  | nil => simp [Memory.wf]
  | cons c m ih =>
    cases m with
    | nil => simp [Memory.wf]
    | cons d m =>
      simp only [Memory.wf, Bool.and_eq_true, decide_eq_true_eq, ih]
      constructor
      · rintro ⟨h, hp⟩
        refine List.pairwise_cons.2 ⟨?_, hp⟩
        intro e he
        rcases List.mem_cons.1 he with rfl | he
        · exact h
        · exact Nat.lt_trans h ((List.pairwise_cons.1 hp).1 e he)
      · intro hp
        exact ⟨(List.pairwise_cons.1 hp).1 d (List.mem_cons_self ..), (List.pairwise_cons.1 hp).2⟩

theorem Memory.below_eq_filter (b : Nat) (m : Memory) : Memory.below b m = m.filter fun c => decide (c.1 < b) := by
  induction m with
  | nil => rfl
  | cons c m ih =>
    simp only [Memory.below, cond_eq_ite, Nat.blt_eq, List.filter_cons, ih, decide_eq_true_eq]

theorem Memory.atLeast_eq_filter (b : Nat) (m : Memory) : Memory.atLeast b m = m.filter fun c => decide (b ≤ c.1) := by
  induction m with
  | nil => rfl
  | cons c m ih =>
    simp only [Memory.atLeast, cond_eq_ite, Nat.ble_eq, List.filter_cons, ih, decide_eq_true_eq]

theorem Memory.mem_wordCells {a : Nat} {w : Word} {c : Host.Cell} (h : c ∈ wordCells a w) :
    wordBase a ≤ c.1 ∧ c.1 < wordBase a + 8 := by
  simp only [wordCells, List.mem_cons, List.not_mem_nil, or_false] at h
  rcases h with rfl | rfl | rfl | rfl | rfl | rfl | rfl | rfl <;> simp

/-- A write keeps the canonical form. -/
theorem Memory.wf_writeWord {m : Memory} (a : Nat) (w : Word) (h : Memory.wf m = true) :
    Memory.wf (Memory.writeWord m a w) = true := by
  rw [Memory.wf_iff_pairwise] at *
  rw [Memory.writeWord, Memory.below_eq_filter, Memory.atLeast_eq_filter]
  refine List.pairwise_append.2 ⟨h.filter _, List.pairwise_append.2 ⟨?_, h.filter _, ?_⟩, ?_⟩
  · rw [← Memory.wf_iff_pairwise]
    simp [wordCells, Memory.wf]
  · intro c hc d hd
    have := (Memory.mem_wordCells hc).2
    have := of_decide_eq_true (List.mem_filter.1 hd).2
    omega
  · intro c hc d hd
    have := of_decide_eq_true (List.mem_filter.1 hc).2
    rcases List.mem_append.1 hd with hd | hd
    · have := (Memory.mem_wordCells hd).1
      omega
    · have := of_decide_eq_true (List.mem_filter.1 hd).2
      omega

/-- A write of a word inside a memory keeps the memory's size. -/
theorem Memory.within_writeWord {n : Nat} {m : Memory} {a : Nat} (w : Word) (ha : a < n)
    (h : Memory.within n m = true) : Memory.within n (Memory.writeWord m a w) = true := by
  simp only [Memory.within, List.all_eq_true, decide_eq_true_eq] at *
  rw [Memory.writeWord, Memory.below_eq_filter, Memory.atLeast_eq_filter]
  intro c hc
  rcases List.mem_append.1 hc with hc | hc
  · exact h c (List.mem_filter.1 hc).1
  · rcases List.mem_append.1 hc with hc | hc
    · have := (Memory.mem_wordCells hc).2
      simp only [wordBase] at *
      omega
    · exact h c (List.mem_filter.1 hc).1

/-! ## Lists of word addresses -/

@[simp] theorem mem_insertAddress (a b : Nat) (l : List Nat) : b ∈ insertAddress a l ↔ b = a ∨ b ∈ l := by
  induction l with
  | nil => simp [insertAddress]
  | cons c l ih =>
    simp only [insertAddress]
    split
    · simp
    · split
      · next h => subst h; simp
      · simp [ih]; tauto

theorem rising_iff_pairwise (l : List Nat) : rising l = true ↔ l.Pairwise (· < ·) := by
  induction l with
  | nil => simp [rising]
  | cons c l ih =>
    cases l with
    | nil => simp [rising]
    | cons d l =>
      simp only [rising, Bool.and_eq_true, decide_eq_true_eq, ih]
      constructor
      · rintro ⟨h, hp⟩
        refine List.pairwise_cons.2 ⟨?_, hp⟩
        intro e he
        rcases List.mem_cons.1 he with rfl | he
        · exact h
        · exact Nat.lt_trans h ((List.pairwise_cons.1 hp).1 e he)
      · intro hp
        exact ⟨(List.pairwise_cons.1 hp).1 d (List.mem_cons_self ..), (List.pairwise_cons.1 hp).2⟩

/-- Adding an address keeps a list of addresses rising. -/
theorem rising_insertAddress {l : List Nat} (a : Nat) (h : rising l = true) : rising (insertAddress a l) = true := by
  rw [rising_iff_pairwise] at *
  induction l with
  | nil => simp [insertAddress]
  | cons c l ih =>
    obtain ⟨hc, hl⟩ := List.pairwise_cons.1 h
    simp only [insertAddress]
    split
    · next hac =>
      refine List.pairwise_cons.2 ⟨?_, h⟩
      intro e he
      rcases List.mem_cons.1 he with rfl | he
      · exact hac
      · exact Nat.lt_trans hac (hc e he)
    · split
      · exact h
      · refine List.pairwise_cons.2 ⟨?_, ih hl⟩
        intro e he
        rcases (mem_insertAddress a e l).1 he with rfl | he
        · omega
        · exact hc e he

end Sys2Proof.Machine
end

