-- ==== Sys2Proof/Laws/State.lean ====
section
/-!
SUPPORT. Each field and each read after each named update of the state, so that no proof unfolds an update.
-/

namespace Sys2Proof.Machine

@[simp] theorem State.setA_aReg (s : State) (r : Reg) (x : Addr) :
    (s.setA r x).aReg = s.aReg.set r.toNat x := rfl
@[simp] theorem State.setA_sReg (s : State) (r : Reg) (x : Addr) :
    (s.setA r x).sReg = s.sReg := rfl
@[simp] theorem State.setA_vReg (s : State) (r : Reg) (x : Addr) :
    (s.setA r x).vReg = s.vReg := rfl
@[simp] theorem State.setA_vl (s : State) (r : Reg) (x : Addr) :
    (s.setA r x).vl = s.vl := rfl
@[simp] theorem State.setA_vm (s : State) (r : Reg) (x : Addr) :
    (s.setA r x).vm = s.vm := rfl
@[simp] theorem State.setA_p (s : State) (r : Reg) (x : Addr) :
    (s.setA r x).p = s.p := rfl
@[simp] theorem State.setA_ba (s : State) (r : Reg) (x : Addr) :
    (s.setA r x).ba = s.ba := rfl
@[simp] theorem State.setA_la (s : State) (r : Reg) (x : Addr) :
    (s.setA r x).la = s.la := rfl
@[simp] theorem State.setA_rtc (s : State) (r : Reg) (x : Addr) :
    (s.setA r x).rtc = s.rtc := rfl
@[simp] theorem State.setA_st (s : State) (r : Reg) (x : Addr) :
    (s.setA r x).st = s.st := rfl
@[simp] theorem State.setA_sem (s : State) (r : Reg) (x : Addr) :
    (s.setA r x).sem = s.sem := rfl
@[simp] theorem State.setA_run (s : State) (r : Reg) (x : Addr) :
    (s.setA r x).run = s.run := rfl
@[simp] theorem State.setA_lm (s : State) (r : Reg) (x : Addr) :
    (s.setA r x).lm = s.lm := rfl
@[simp] theorem State.setA_cm (s : State) (r : Reg) (x : Addr) :
    (s.setA r x).cm = s.cm := rfl
@[simp] theorem State.setA_written (s : State) (r : Reg) (x : Addr) :
    (s.setA r x).written = s.written := rfl
@[simp] theorem State.setA_ibuf (s : State) (r : Reg) (x : Addr) :
    (s.setA r x).ibuf = s.ibuf := rfl
@[simp] theorem State.setA_freeIndex (s : State) (r : Reg) (x : Addr) :
    (s.setA r x).freeIndex = s.freeIndex := rfl
@[simp] theorem State.getS_setA (s : State) (r : Reg) (x : Addr) (q : Reg) :
    (s.setA r x).getS q = s.getS q := rfl
@[simp] theorem State.elem_setA (s : State) (r : Reg) (x : Addr) (q : Reg) (e : Nat) :
    (s.setA r x).elem q e = s.elem q e := rfl
@[simp] theorem State.vlen_setA (s : State) (r : Reg) (x : Addr) :
    (s.setA r x).vlen = s.vlen := rfl
@[simp] theorem State.absolute_setA (s : State) (r : Reg) (x : Addr) (y : Addr) :
    (s.setA r x).absolute y = s.absolute y := rfl
@[simp] theorem State.inField_setA (s : State) (r : Reg) (x : Addr) (y : Addr) :
    (s.setA r x).inField y = s.inField y := rfl
@[simp] theorem State.rangeBad_setA (s : State) (r : Reg) (x : Addr) (y : Addr) :
    (s.setA r x).rangeBad y = s.rangeBad y := rfl
@[simp] theorem State.fieldOk_setA (s : State) (r : Reg) (x : Addr) :
    (s.setA r x).fieldOk = s.fieldOk := rfl
@[simp] theorem State.commonRead_setA (s : State) (r : Reg) (x : Addr) (y : Addr) :
    (s.setA r x).commonRead y = s.commonRead y := rfl
@[simp] theorem State.localRead_setA (s : State) (r : Reg) (x : Addr) (y : Nat) :
    (s.setA r x).localRead y = s.localRead y := rfl
@[simp] theorem State.semFlag_setA (s : State) (r : Reg) (x : Addr) :
    (s.setA r x).semFlag = s.semFlag := rfl

@[simp] theorem State.setS_aReg (s : State) (r : Reg) (x : Word) :
    (s.setS r x).aReg = s.aReg := rfl
@[simp] theorem State.setS_sReg (s : State) (r : Reg) (x : Word) :
    (s.setS r x).sReg = s.sReg.set r.toNat x := rfl
@[simp] theorem State.setS_vReg (s : State) (r : Reg) (x : Word) :
    (s.setS r x).vReg = s.vReg := rfl
@[simp] theorem State.setS_vl (s : State) (r : Reg) (x : Word) :
    (s.setS r x).vl = s.vl := rfl
@[simp] theorem State.setS_vm (s : State) (r : Reg) (x : Word) :
    (s.setS r x).vm = s.vm := rfl
@[simp] theorem State.setS_p (s : State) (r : Reg) (x : Word) :
    (s.setS r x).p = s.p := rfl
@[simp] theorem State.setS_ba (s : State) (r : Reg) (x : Word) :
    (s.setS r x).ba = s.ba := rfl
@[simp] theorem State.setS_la (s : State) (r : Reg) (x : Word) :
    (s.setS r x).la = s.la := rfl
@[simp] theorem State.setS_rtc (s : State) (r : Reg) (x : Word) :
    (s.setS r x).rtc = s.rtc := rfl
@[simp] theorem State.setS_st (s : State) (r : Reg) (x : Word) :
    (s.setS r x).st = s.st := rfl
@[simp] theorem State.setS_sem (s : State) (r : Reg) (x : Word) :
    (s.setS r x).sem = s.sem := rfl
@[simp] theorem State.setS_run (s : State) (r : Reg) (x : Word) :
    (s.setS r x).run = s.run := rfl
@[simp] theorem State.setS_lm (s : State) (r : Reg) (x : Word) :
    (s.setS r x).lm = s.lm := rfl
@[simp] theorem State.setS_cm (s : State) (r : Reg) (x : Word) :
    (s.setS r x).cm = s.cm := rfl
@[simp] theorem State.setS_written (s : State) (r : Reg) (x : Word) :
    (s.setS r x).written = s.written := rfl
@[simp] theorem State.setS_ibuf (s : State) (r : Reg) (x : Word) :
    (s.setS r x).ibuf = s.ibuf := rfl
@[simp] theorem State.setS_freeIndex (s : State) (r : Reg) (x : Word) :
    (s.setS r x).freeIndex = s.freeIndex := rfl
@[simp] theorem State.getA_setS (s : State) (r : Reg) (x : Word) (q : Reg) :
    (s.setS r x).getA q = s.getA q := rfl
@[simp] theorem State.elem_setS (s : State) (r : Reg) (x : Word) (q : Reg) (e : Nat) :
    (s.setS r x).elem q e = s.elem q e := rfl
@[simp] theorem State.vlen_setS (s : State) (r : Reg) (x : Word) :
    (s.setS r x).vlen = s.vlen := rfl
@[simp] theorem State.absolute_setS (s : State) (r : Reg) (x : Word) (y : Addr) :
    (s.setS r x).absolute y = s.absolute y := rfl
@[simp] theorem State.inField_setS (s : State) (r : Reg) (x : Word) (y : Addr) :
    (s.setS r x).inField y = s.inField y := rfl
@[simp] theorem State.rangeBad_setS (s : State) (r : Reg) (x : Word) (y : Addr) :
    (s.setS r x).rangeBad y = s.rangeBad y := rfl
@[simp] theorem State.fieldOk_setS (s : State) (r : Reg) (x : Word) :
    (s.setS r x).fieldOk = s.fieldOk := rfl
@[simp] theorem State.commonRead_setS (s : State) (r : Reg) (x : Word) (y : Addr) :
    (s.setS r x).commonRead y = s.commonRead y := rfl
@[simp] theorem State.localRead_setS (s : State) (r : Reg) (x : Word) (y : Nat) :
    (s.setS r x).localRead y = s.localRead y := rfl
@[simp] theorem State.semFlag_setS (s : State) (r : Reg) (x : Word) :
    (s.setS r x).semFlag = s.semFlag := rfl

@[simp] theorem State.setV_aReg (s : State) (r : Reg) (n : Nat) (f : Nat → Word) :
    (s.setV r n f).aReg = s.aReg := rfl
@[simp] theorem State.setV_sReg (s : State) (r : Reg) (n : Nat) (f : Nat → Word) :
    (s.setV r n f).sReg = s.sReg := rfl
@[simp] theorem State.setV_vl (s : State) (r : Reg) (n : Nat) (f : Nat → Word) :
    (s.setV r n f).vl = s.vl := rfl
@[simp] theorem State.setV_vm (s : State) (r : Reg) (n : Nat) (f : Nat → Word) :
    (s.setV r n f).vm = s.vm := rfl
@[simp] theorem State.setV_p (s : State) (r : Reg) (n : Nat) (f : Nat → Word) :
    (s.setV r n f).p = s.p := rfl
@[simp] theorem State.setV_ba (s : State) (r : Reg) (n : Nat) (f : Nat → Word) :
    (s.setV r n f).ba = s.ba := rfl
@[simp] theorem State.setV_la (s : State) (r : Reg) (n : Nat) (f : Nat → Word) :
    (s.setV r n f).la = s.la := rfl
@[simp] theorem State.setV_rtc (s : State) (r : Reg) (n : Nat) (f : Nat → Word) :
    (s.setV r n f).rtc = s.rtc := rfl
@[simp] theorem State.setV_st (s : State) (r : Reg) (n : Nat) (f : Nat → Word) :
    (s.setV r n f).st = s.st := rfl
@[simp] theorem State.setV_sem (s : State) (r : Reg) (n : Nat) (f : Nat → Word) :
    (s.setV r n f).sem = s.sem := rfl
@[simp] theorem State.setV_run (s : State) (r : Reg) (n : Nat) (f : Nat → Word) :
    (s.setV r n f).run = s.run := rfl
@[simp] theorem State.setV_lm (s : State) (r : Reg) (n : Nat) (f : Nat → Word) :
    (s.setV r n f).lm = s.lm := rfl
@[simp] theorem State.setV_cm (s : State) (r : Reg) (n : Nat) (f : Nat → Word) :
    (s.setV r n f).cm = s.cm := rfl
@[simp] theorem State.setV_written (s : State) (r : Reg) (n : Nat) (f : Nat → Word) :
    (s.setV r n f).written = s.written := rfl
@[simp] theorem State.setV_ibuf (s : State) (r : Reg) (n : Nat) (f : Nat → Word) :
    (s.setV r n f).ibuf = s.ibuf := rfl
@[simp] theorem State.setV_freeIndex (s : State) (r : Reg) (n : Nat) (f : Nat → Word) :
    (s.setV r n f).freeIndex = s.freeIndex := rfl
@[simp] theorem State.getA_setV (s : State) (r : Reg) (n : Nat) (f : Nat → Word) (q : Reg) :
    (s.setV r n f).getA q = s.getA q := rfl
@[simp] theorem State.getS_setV (s : State) (r : Reg) (n : Nat) (f : Nat → Word) (q : Reg) :
    (s.setV r n f).getS q = s.getS q := rfl
@[simp] theorem State.vlen_setV (s : State) (r : Reg) (n : Nat) (f : Nat → Word) :
    (s.setV r n f).vlen = s.vlen := rfl
@[simp] theorem State.absolute_setV (s : State) (r : Reg) (n : Nat) (f : Nat → Word) (y : Addr) :
    (s.setV r n f).absolute y = s.absolute y := rfl
@[simp] theorem State.inField_setV (s : State) (r : Reg) (n : Nat) (f : Nat → Word) (y : Addr) :
    (s.setV r n f).inField y = s.inField y := rfl
@[simp] theorem State.rangeBad_setV (s : State) (r : Reg) (n : Nat) (f : Nat → Word) (y : Addr) :
    (s.setV r n f).rangeBad y = s.rangeBad y := rfl
@[simp] theorem State.fieldOk_setV (s : State) (r : Reg) (n : Nat) (f : Nat → Word) :
    (s.setV r n f).fieldOk = s.fieldOk := rfl
@[simp] theorem State.commonRead_setV (s : State) (r : Reg) (n : Nat) (f : Nat → Word) (y : Addr) :
    (s.setV r n f).commonRead y = s.commonRead y := rfl
@[simp] theorem State.localRead_setV (s : State) (r : Reg) (n : Nat) (f : Nat → Word) (y : Nat) :
    (s.setV r n f).localRead y = s.localRead y := rfl
@[simp] theorem State.semFlag_setV (s : State) (r : Reg) (n : Nat) (f : Nat → Word) :
    (s.setV r n f).semFlag = s.semFlag := rfl

@[simp] theorem State.advance_aReg (s : State) (n : Nat) :
    (s.advance n).aReg = s.aReg := rfl
@[simp] theorem State.advance_sReg (s : State) (n : Nat) :
    (s.advance n).sReg = s.sReg := rfl
@[simp] theorem State.advance_vReg (s : State) (n : Nat) :
    (s.advance n).vReg = s.vReg := rfl
@[simp] theorem State.advance_vl (s : State) (n : Nat) :
    (s.advance n).vl = s.vl := rfl
@[simp] theorem State.advance_vm (s : State) (n : Nat) :
    (s.advance n).vm = s.vm := rfl
@[simp] theorem State.advance_p (s : State) (n : Nat) :
    (s.advance n).p = s.p + BitVec.ofNat 32 n := rfl
@[simp] theorem State.advance_ba (s : State) (n : Nat) :
    (s.advance n).ba = s.ba := rfl
@[simp] theorem State.advance_la (s : State) (n : Nat) :
    (s.advance n).la = s.la := rfl
@[simp] theorem State.advance_rtc (s : State) (n : Nat) :
    (s.advance n).rtc = s.rtc := rfl
@[simp] theorem State.advance_st (s : State) (n : Nat) :
    (s.advance n).st = s.st := rfl
@[simp] theorem State.advance_sem (s : State) (n : Nat) :
    (s.advance n).sem = s.sem := rfl
@[simp] theorem State.advance_run (s : State) (n : Nat) :
    (s.advance n).run = s.run := rfl
@[simp] theorem State.advance_lm (s : State) (n : Nat) :
    (s.advance n).lm = s.lm := rfl
@[simp] theorem State.advance_cm (s : State) (n : Nat) :
    (s.advance n).cm = s.cm := rfl
@[simp] theorem State.advance_written (s : State) (n : Nat) :
    (s.advance n).written = s.written := rfl
@[simp] theorem State.advance_ibuf (s : State) (n : Nat) :
    (s.advance n).ibuf = s.ibuf := rfl
@[simp] theorem State.advance_freeIndex (s : State) (n : Nat) :
    (s.advance n).freeIndex = s.freeIndex := rfl
@[simp] theorem State.getA_advance (s : State) (n : Nat) (q : Reg) :
    (s.advance n).getA q = s.getA q := rfl
@[simp] theorem State.getS_advance (s : State) (n : Nat) (q : Reg) :
    (s.advance n).getS q = s.getS q := rfl
@[simp] theorem State.elem_advance (s : State) (n : Nat) (q : Reg) (e : Nat) :
    (s.advance n).elem q e = s.elem q e := rfl
@[simp] theorem State.vlen_advance (s : State) (n : Nat) :
    (s.advance n).vlen = s.vlen := rfl
@[simp] theorem State.absolute_advance (s : State) (n : Nat) (y : Addr) :
    (s.advance n).absolute y = s.absolute y := rfl
@[simp] theorem State.inField_advance (s : State) (n : Nat) (y : Addr) :
    (s.advance n).inField y = s.inField y := rfl
@[simp] theorem State.rangeBad_advance (s : State) (n : Nat) (y : Addr) :
    (s.advance n).rangeBad y = s.rangeBad y := rfl
@[simp] theorem State.fieldOk_advance (s : State) (n : Nat) :
    (s.advance n).fieldOk = s.fieldOk := rfl
@[simp] theorem State.commonRead_advance (s : State) (n : Nat) (y : Addr) :
    (s.advance n).commonRead y = s.commonRead y := rfl
@[simp] theorem State.localRead_advance (s : State) (n : Nat) (y : Nat) :
    (s.advance n).localRead y = s.localRead y := rfl
@[simp] theorem State.semFlag_advance (s : State) (n : Nat) :
    (s.advance n).semFlag = s.semFlag := rfl

@[simp] theorem State.jumpTo_aReg (s : State) (x : Addr) :
    (s.jumpTo x).aReg = s.aReg := rfl
@[simp] theorem State.jumpTo_sReg (s : State) (x : Addr) :
    (s.jumpTo x).sReg = s.sReg := rfl
@[simp] theorem State.jumpTo_vReg (s : State) (x : Addr) :
    (s.jumpTo x).vReg = s.vReg := rfl
@[simp] theorem State.jumpTo_vl (s : State) (x : Addr) :
    (s.jumpTo x).vl = s.vl := rfl
@[simp] theorem State.jumpTo_vm (s : State) (x : Addr) :
    (s.jumpTo x).vm = s.vm := rfl
@[simp] theorem State.jumpTo_p (s : State) (x : Addr) :
    (s.jumpTo x).p = x := rfl
@[simp] theorem State.jumpTo_ba (s : State) (x : Addr) :
    (s.jumpTo x).ba = s.ba := rfl
@[simp] theorem State.jumpTo_la (s : State) (x : Addr) :
    (s.jumpTo x).la = s.la := rfl
@[simp] theorem State.jumpTo_rtc (s : State) (x : Addr) :
    (s.jumpTo x).rtc = s.rtc := rfl
@[simp] theorem State.jumpTo_st (s : State) (x : Addr) :
    (s.jumpTo x).st = s.st := rfl
@[simp] theorem State.jumpTo_sem (s : State) (x : Addr) :
    (s.jumpTo x).sem = s.sem := rfl
@[simp] theorem State.jumpTo_run (s : State) (x : Addr) :
    (s.jumpTo x).run = s.run := rfl
@[simp] theorem State.jumpTo_lm (s : State) (x : Addr) :
    (s.jumpTo x).lm = s.lm := rfl
@[simp] theorem State.jumpTo_cm (s : State) (x : Addr) :
    (s.jumpTo x).cm = s.cm := rfl
@[simp] theorem State.jumpTo_written (s : State) (x : Addr) :
    (s.jumpTo x).written = s.written := rfl
@[simp] theorem State.jumpTo_ibuf (s : State) (x : Addr) :
    (s.jumpTo x).ibuf = s.ibuf := rfl
@[simp] theorem State.jumpTo_freeIndex (s : State) (x : Addr) :
    (s.jumpTo x).freeIndex = s.freeIndex := rfl
@[simp] theorem State.getA_jumpTo (s : State) (x : Addr) (q : Reg) :
    (s.jumpTo x).getA q = s.getA q := rfl
@[simp] theorem State.getS_jumpTo (s : State) (x : Addr) (q : Reg) :
    (s.jumpTo x).getS q = s.getS q := rfl
@[simp] theorem State.elem_jumpTo (s : State) (x : Addr) (q : Reg) (e : Nat) :
    (s.jumpTo x).elem q e = s.elem q e := rfl
@[simp] theorem State.vlen_jumpTo (s : State) (x : Addr) :
    (s.jumpTo x).vlen = s.vlen := rfl
@[simp] theorem State.absolute_jumpTo (s : State) (x : Addr) (y : Addr) :
    (s.jumpTo x).absolute y = s.absolute y := rfl
@[simp] theorem State.inField_jumpTo (s : State) (x : Addr) (y : Addr) :
    (s.jumpTo x).inField y = s.inField y := rfl
@[simp] theorem State.rangeBad_jumpTo (s : State) (x : Addr) (y : Addr) :
    (s.jumpTo x).rangeBad y = s.rangeBad y := rfl
@[simp] theorem State.fieldOk_jumpTo (s : State) (x : Addr) :
    (s.jumpTo x).fieldOk = s.fieldOk := rfl
@[simp] theorem State.commonRead_jumpTo (s : State) (x : Addr) (y : Addr) :
    (s.jumpTo x).commonRead y = s.commonRead y := rfl
@[simp] theorem State.localRead_jumpTo (s : State) (x : Addr) (y : Nat) :
    (s.jumpTo x).localRead y = s.localRead y := rfl
@[simp] theorem State.semFlag_jumpTo (s : State) (x : Addr) :
    (s.jumpTo x).semFlag = s.semFlag := rfl

@[simp] theorem State.setVL_aReg (s : State) (x : BitVec 6) :
    (s.setVL x).aReg = s.aReg := rfl
@[simp] theorem State.setVL_sReg (s : State) (x : BitVec 6) :
    (s.setVL x).sReg = s.sReg := rfl
@[simp] theorem State.setVL_vReg (s : State) (x : BitVec 6) :
    (s.setVL x).vReg = s.vReg := rfl
@[simp] theorem State.setVL_vl (s : State) (x : BitVec 6) :
    (s.setVL x).vl = x := rfl
@[simp] theorem State.setVL_vm (s : State) (x : BitVec 6) :
    (s.setVL x).vm = s.vm := rfl
@[simp] theorem State.setVL_p (s : State) (x : BitVec 6) :
    (s.setVL x).p = s.p := rfl
@[simp] theorem State.setVL_ba (s : State) (x : BitVec 6) :
    (s.setVL x).ba = s.ba := rfl
@[simp] theorem State.setVL_la (s : State) (x : BitVec 6) :
    (s.setVL x).la = s.la := rfl
@[simp] theorem State.setVL_rtc (s : State) (x : BitVec 6) :
    (s.setVL x).rtc = s.rtc := rfl
@[simp] theorem State.setVL_st (s : State) (x : BitVec 6) :
    (s.setVL x).st = s.st := rfl
@[simp] theorem State.setVL_sem (s : State) (x : BitVec 6) :
    (s.setVL x).sem = s.sem := rfl
@[simp] theorem State.setVL_run (s : State) (x : BitVec 6) :
    (s.setVL x).run = s.run := rfl
@[simp] theorem State.setVL_lm (s : State) (x : BitVec 6) :
    (s.setVL x).lm = s.lm := rfl
@[simp] theorem State.setVL_cm (s : State) (x : BitVec 6) :
    (s.setVL x).cm = s.cm := rfl
@[simp] theorem State.setVL_written (s : State) (x : BitVec 6) :
    (s.setVL x).written = s.written := rfl
@[simp] theorem State.setVL_ibuf (s : State) (x : BitVec 6) :
    (s.setVL x).ibuf = s.ibuf := rfl
@[simp] theorem State.setVL_freeIndex (s : State) (x : BitVec 6) :
    (s.setVL x).freeIndex = s.freeIndex := rfl
@[simp] theorem State.getA_setVL (s : State) (x : BitVec 6) (q : Reg) :
    (s.setVL x).getA q = s.getA q := rfl
@[simp] theorem State.getS_setVL (s : State) (x : BitVec 6) (q : Reg) :
    (s.setVL x).getS q = s.getS q := rfl
@[simp] theorem State.elem_setVL (s : State) (x : BitVec 6) (q : Reg) (e : Nat) :
    (s.setVL x).elem q e = s.elem q e := rfl
@[simp] theorem State.absolute_setVL (s : State) (x : BitVec 6) (y : Addr) :
    (s.setVL x).absolute y = s.absolute y := rfl
@[simp] theorem State.inField_setVL (s : State) (x : BitVec 6) (y : Addr) :
    (s.setVL x).inField y = s.inField y := rfl
@[simp] theorem State.rangeBad_setVL (s : State) (x : BitVec 6) (y : Addr) :
    (s.setVL x).rangeBad y = s.rangeBad y := rfl
@[simp] theorem State.fieldOk_setVL (s : State) (x : BitVec 6) :
    (s.setVL x).fieldOk = s.fieldOk := rfl
@[simp] theorem State.commonRead_setVL (s : State) (x : BitVec 6) (y : Addr) :
    (s.setVL x).commonRead y = s.commonRead y := rfl
@[simp] theorem State.localRead_setVL (s : State) (x : BitVec 6) (y : Nat) :
    (s.setVL x).localRead y = s.localRead y := rfl
@[simp] theorem State.semFlag_setVL (s : State) (x : BitVec 6) :
    (s.setVL x).semFlag = s.semFlag := rfl

@[simp] theorem State.setVM_aReg (s : State) (x : Word) :
    (s.setVM x).aReg = s.aReg := rfl
@[simp] theorem State.setVM_sReg (s : State) (x : Word) :
    (s.setVM x).sReg = s.sReg := rfl
@[simp] theorem State.setVM_vReg (s : State) (x : Word) :
    (s.setVM x).vReg = s.vReg := rfl
@[simp] theorem State.setVM_vl (s : State) (x : Word) :
    (s.setVM x).vl = s.vl := rfl
@[simp] theorem State.setVM_vm (s : State) (x : Word) :
    (s.setVM x).vm = x := rfl
@[simp] theorem State.setVM_p (s : State) (x : Word) :
    (s.setVM x).p = s.p := rfl
@[simp] theorem State.setVM_ba (s : State) (x : Word) :
    (s.setVM x).ba = s.ba := rfl
@[simp] theorem State.setVM_la (s : State) (x : Word) :
    (s.setVM x).la = s.la := rfl
@[simp] theorem State.setVM_rtc (s : State) (x : Word) :
    (s.setVM x).rtc = s.rtc := rfl
@[simp] theorem State.setVM_st (s : State) (x : Word) :
    (s.setVM x).st = s.st := rfl
@[simp] theorem State.setVM_sem (s : State) (x : Word) :
    (s.setVM x).sem = s.sem := rfl
@[simp] theorem State.setVM_run (s : State) (x : Word) :
    (s.setVM x).run = s.run := rfl
@[simp] theorem State.setVM_lm (s : State) (x : Word) :
    (s.setVM x).lm = s.lm := rfl
@[simp] theorem State.setVM_cm (s : State) (x : Word) :
    (s.setVM x).cm = s.cm := rfl
@[simp] theorem State.setVM_written (s : State) (x : Word) :
    (s.setVM x).written = s.written := rfl
@[simp] theorem State.setVM_ibuf (s : State) (x : Word) :
    (s.setVM x).ibuf = s.ibuf := rfl
@[simp] theorem State.setVM_freeIndex (s : State) (x : Word) :
    (s.setVM x).freeIndex = s.freeIndex := rfl
@[simp] theorem State.getA_setVM (s : State) (x : Word) (q : Reg) :
    (s.setVM x).getA q = s.getA q := rfl
@[simp] theorem State.getS_setVM (s : State) (x : Word) (q : Reg) :
    (s.setVM x).getS q = s.getS q := rfl
@[simp] theorem State.elem_setVM (s : State) (x : Word) (q : Reg) (e : Nat) :
    (s.setVM x).elem q e = s.elem q e := rfl
@[simp] theorem State.vlen_setVM (s : State) (x : Word) :
    (s.setVM x).vlen = s.vlen := rfl
@[simp] theorem State.absolute_setVM (s : State) (x : Word) (y : Addr) :
    (s.setVM x).absolute y = s.absolute y := rfl
@[simp] theorem State.inField_setVM (s : State) (x : Word) (y : Addr) :
    (s.setVM x).inField y = s.inField y := rfl
@[simp] theorem State.rangeBad_setVM (s : State) (x : Word) (y : Addr) :
    (s.setVM x).rangeBad y = s.rangeBad y := rfl
@[simp] theorem State.fieldOk_setVM (s : State) (x : Word) :
    (s.setVM x).fieldOk = s.fieldOk := rfl
@[simp] theorem State.commonRead_setVM (s : State) (x : Word) (y : Addr) :
    (s.setVM x).commonRead y = s.commonRead y := rfl
@[simp] theorem State.localRead_setVM (s : State) (x : Word) (y : Nat) :
    (s.setVM x).localRead y = s.localRead y := rfl
@[simp] theorem State.semFlag_setVM (s : State) (x : Word) :
    (s.setVM x).semFlag = s.semFlag := rfl

@[simp] theorem State.setEnRangeHalt_aReg (s : State) (b : Bool) :
    (s.setEnRangeHalt b).aReg = s.aReg := rfl
@[simp] theorem State.setEnRangeHalt_sReg (s : State) (b : Bool) :
    (s.setEnRangeHalt b).sReg = s.sReg := rfl
@[simp] theorem State.setEnRangeHalt_vReg (s : State) (b : Bool) :
    (s.setEnRangeHalt b).vReg = s.vReg := rfl
@[simp] theorem State.setEnRangeHalt_vl (s : State) (b : Bool) :
    (s.setEnRangeHalt b).vl = s.vl := rfl
@[simp] theorem State.setEnRangeHalt_vm (s : State) (b : Bool) :
    (s.setEnRangeHalt b).vm = s.vm := rfl
@[simp] theorem State.setEnRangeHalt_p (s : State) (b : Bool) :
    (s.setEnRangeHalt b).p = s.p := rfl
@[simp] theorem State.setEnRangeHalt_ba (s : State) (b : Bool) :
    (s.setEnRangeHalt b).ba = s.ba := rfl
@[simp] theorem State.setEnRangeHalt_la (s : State) (b : Bool) :
    (s.setEnRangeHalt b).la = s.la := rfl
@[simp] theorem State.setEnRangeHalt_rtc (s : State) (b : Bool) :
    (s.setEnRangeHalt b).rtc = s.rtc := rfl
@[simp] theorem State.setEnRangeHalt_st (s : State) (b : Bool) :
    (s.setEnRangeHalt b).st = { s.st with enRangeHalt := b } := rfl
@[simp] theorem State.setEnRangeHalt_sem (s : State) (b : Bool) :
    (s.setEnRangeHalt b).sem = s.sem := rfl
@[simp] theorem State.setEnRangeHalt_run (s : State) (b : Bool) :
    (s.setEnRangeHalt b).run = s.run := rfl
@[simp] theorem State.setEnRangeHalt_lm (s : State) (b : Bool) :
    (s.setEnRangeHalt b).lm = s.lm := rfl
@[simp] theorem State.setEnRangeHalt_cm (s : State) (b : Bool) :
    (s.setEnRangeHalt b).cm = s.cm := rfl
@[simp] theorem State.setEnRangeHalt_written (s : State) (b : Bool) :
    (s.setEnRangeHalt b).written = s.written := rfl
@[simp] theorem State.setEnRangeHalt_ibuf (s : State) (b : Bool) :
    (s.setEnRangeHalt b).ibuf = s.ibuf := rfl
@[simp] theorem State.setEnRangeHalt_freeIndex (s : State) (b : Bool) :
    (s.setEnRangeHalt b).freeIndex = s.freeIndex := rfl
@[simp] theorem State.getA_setEnRangeHalt (s : State) (b : Bool) (q : Reg) :
    (s.setEnRangeHalt b).getA q = s.getA q := rfl
@[simp] theorem State.getS_setEnRangeHalt (s : State) (b : Bool) (q : Reg) :
    (s.setEnRangeHalt b).getS q = s.getS q := rfl
@[simp] theorem State.elem_setEnRangeHalt (s : State) (b : Bool) (q : Reg) (e : Nat) :
    (s.setEnRangeHalt b).elem q e = s.elem q e := rfl
@[simp] theorem State.vlen_setEnRangeHalt (s : State) (b : Bool) :
    (s.setEnRangeHalt b).vlen = s.vlen := rfl
@[simp] theorem State.absolute_setEnRangeHalt (s : State) (b : Bool) (y : Addr) :
    (s.setEnRangeHalt b).absolute y = s.absolute y := rfl
@[simp] theorem State.inField_setEnRangeHalt (s : State) (b : Bool) (y : Addr) :
    (s.setEnRangeHalt b).inField y = s.inField y := rfl
@[simp] theorem State.rangeBad_setEnRangeHalt (s : State) (b : Bool) (y : Addr) :
    (s.setEnRangeHalt b).rangeBad y = s.rangeBad y := rfl
@[simp] theorem State.fieldOk_setEnRangeHalt (s : State) (b : Bool) :
    (s.setEnRangeHalt b).fieldOk = s.fieldOk := rfl
@[simp] theorem State.commonRead_setEnRangeHalt (s : State) (b : Bool) (y : Addr) :
    (s.setEnRangeHalt b).commonRead y = s.commonRead y := rfl
@[simp] theorem State.localRead_setEnRangeHalt (s : State) (b : Bool) (y : Nat) :
    (s.setEnRangeHalt b).localRead y = s.localRead y := rfl
@[simp] theorem State.semFlag_setEnRangeHalt (s : State) (b : Bool) :
    (s.setEnRangeHalt b).semFlag = s.semFlag := rfl

@[simp] theorem State.setEnFloatHalt_aReg (s : State) (b : Bool) :
    (s.setEnFloatHalt b).aReg = s.aReg := rfl
@[simp] theorem State.setEnFloatHalt_sReg (s : State) (b : Bool) :
    (s.setEnFloatHalt b).sReg = s.sReg := rfl
@[simp] theorem State.setEnFloatHalt_vReg (s : State) (b : Bool) :
    (s.setEnFloatHalt b).vReg = s.vReg := rfl
@[simp] theorem State.setEnFloatHalt_vl (s : State) (b : Bool) :
    (s.setEnFloatHalt b).vl = s.vl := rfl
@[simp] theorem State.setEnFloatHalt_vm (s : State) (b : Bool) :
    (s.setEnFloatHalt b).vm = s.vm := rfl
@[simp] theorem State.setEnFloatHalt_p (s : State) (b : Bool) :
    (s.setEnFloatHalt b).p = s.p := rfl
@[simp] theorem State.setEnFloatHalt_ba (s : State) (b : Bool) :
    (s.setEnFloatHalt b).ba = s.ba := rfl
@[simp] theorem State.setEnFloatHalt_la (s : State) (b : Bool) :
    (s.setEnFloatHalt b).la = s.la := rfl
@[simp] theorem State.setEnFloatHalt_rtc (s : State) (b : Bool) :
    (s.setEnFloatHalt b).rtc = s.rtc := rfl
@[simp] theorem State.setEnFloatHalt_st (s : State) (b : Bool) :
    (s.setEnFloatHalt b).st = { s.st with enFloatHalt := b } := rfl
@[simp] theorem State.setEnFloatHalt_sem (s : State) (b : Bool) :
    (s.setEnFloatHalt b).sem = s.sem := rfl
@[simp] theorem State.setEnFloatHalt_run (s : State) (b : Bool) :
    (s.setEnFloatHalt b).run = s.run := rfl
@[simp] theorem State.setEnFloatHalt_lm (s : State) (b : Bool) :
    (s.setEnFloatHalt b).lm = s.lm := rfl
@[simp] theorem State.setEnFloatHalt_cm (s : State) (b : Bool) :
    (s.setEnFloatHalt b).cm = s.cm := rfl
@[simp] theorem State.setEnFloatHalt_written (s : State) (b : Bool) :
    (s.setEnFloatHalt b).written = s.written := rfl
@[simp] theorem State.setEnFloatHalt_ibuf (s : State) (b : Bool) :
    (s.setEnFloatHalt b).ibuf = s.ibuf := rfl
@[simp] theorem State.setEnFloatHalt_freeIndex (s : State) (b : Bool) :
    (s.setEnFloatHalt b).freeIndex = s.freeIndex := rfl
@[simp] theorem State.getA_setEnFloatHalt (s : State) (b : Bool) (q : Reg) :
    (s.setEnFloatHalt b).getA q = s.getA q := rfl
@[simp] theorem State.getS_setEnFloatHalt (s : State) (b : Bool) (q : Reg) :
    (s.setEnFloatHalt b).getS q = s.getS q := rfl
@[simp] theorem State.elem_setEnFloatHalt (s : State) (b : Bool) (q : Reg) (e : Nat) :
    (s.setEnFloatHalt b).elem q e = s.elem q e := rfl
@[simp] theorem State.vlen_setEnFloatHalt (s : State) (b : Bool) :
    (s.setEnFloatHalt b).vlen = s.vlen := rfl
@[simp] theorem State.absolute_setEnFloatHalt (s : State) (b : Bool) (y : Addr) :
    (s.setEnFloatHalt b).absolute y = s.absolute y := rfl
@[simp] theorem State.inField_setEnFloatHalt (s : State) (b : Bool) (y : Addr) :
    (s.setEnFloatHalt b).inField y = s.inField y := rfl
@[simp] theorem State.rangeBad_setEnFloatHalt (s : State) (b : Bool) (y : Addr) :
    (s.setEnFloatHalt b).rangeBad y = s.rangeBad y := rfl
@[simp] theorem State.fieldOk_setEnFloatHalt (s : State) (b : Bool) :
    (s.setEnFloatHalt b).fieldOk = s.fieldOk := rfl
@[simp] theorem State.commonRead_setEnFloatHalt (s : State) (b : Bool) (y : Addr) :
    (s.setEnFloatHalt b).commonRead y = s.commonRead y := rfl
@[simp] theorem State.localRead_setEnFloatHalt (s : State) (b : Bool) (y : Nat) :
    (s.setEnFloatHalt b).localRead y = s.localRead y := rfl
@[simp] theorem State.semFlag_setEnFloatHalt (s : State) (b : Bool) :
    (s.setEnFloatHalt b).semFlag = s.semFlag := rfl

@[simp] theorem State.setRangeErr_aReg (s : State) :
    (s.setRangeErr).aReg = s.aReg := rfl
@[simp] theorem State.setRangeErr_sReg (s : State) :
    (s.setRangeErr).sReg = s.sReg := rfl
@[simp] theorem State.setRangeErr_vReg (s : State) :
    (s.setRangeErr).vReg = s.vReg := rfl
@[simp] theorem State.setRangeErr_vl (s : State) :
    (s.setRangeErr).vl = s.vl := rfl
@[simp] theorem State.setRangeErr_vm (s : State) :
    (s.setRangeErr).vm = s.vm := rfl
@[simp] theorem State.setRangeErr_p (s : State) :
    (s.setRangeErr).p = s.p := rfl
@[simp] theorem State.setRangeErr_ba (s : State) :
    (s.setRangeErr).ba = s.ba := rfl
@[simp] theorem State.setRangeErr_la (s : State) :
    (s.setRangeErr).la = s.la := rfl
@[simp] theorem State.setRangeErr_rtc (s : State) :
    (s.setRangeErr).rtc = s.rtc := rfl
@[simp] theorem State.setRangeErr_st (s : State) :
    (s.setRangeErr).st = { s.st with rangeErr := true } := rfl
@[simp] theorem State.setRangeErr_sem (s : State) :
    (s.setRangeErr).sem = s.sem := rfl
@[simp] theorem State.setRangeErr_run (s : State) :
    (s.setRangeErr).run = s.run := rfl
@[simp] theorem State.setRangeErr_lm (s : State) :
    (s.setRangeErr).lm = s.lm := rfl
@[simp] theorem State.setRangeErr_cm (s : State) :
    (s.setRangeErr).cm = s.cm := rfl
@[simp] theorem State.setRangeErr_written (s : State) :
    (s.setRangeErr).written = s.written := rfl
@[simp] theorem State.setRangeErr_ibuf (s : State) :
    (s.setRangeErr).ibuf = s.ibuf := rfl
@[simp] theorem State.setRangeErr_freeIndex (s : State) :
    (s.setRangeErr).freeIndex = s.freeIndex := rfl
@[simp] theorem State.getA_setRangeErr (s : State) (q : Reg) :
    (s.setRangeErr).getA q = s.getA q := rfl
@[simp] theorem State.getS_setRangeErr (s : State) (q : Reg) :
    (s.setRangeErr).getS q = s.getS q := rfl
@[simp] theorem State.elem_setRangeErr (s : State) (q : Reg) (e : Nat) :
    (s.setRangeErr).elem q e = s.elem q e := rfl
@[simp] theorem State.vlen_setRangeErr (s : State) :
    (s.setRangeErr).vlen = s.vlen := rfl
@[simp] theorem State.absolute_setRangeErr (s : State) (y : Addr) :
    (s.setRangeErr).absolute y = s.absolute y := rfl
@[simp] theorem State.inField_setRangeErr (s : State) (y : Addr) :
    (s.setRangeErr).inField y = s.inField y := rfl
@[simp] theorem State.rangeBad_setRangeErr (s : State) (y : Addr) :
    (s.setRangeErr).rangeBad y = s.rangeBad y := rfl
@[simp] theorem State.fieldOk_setRangeErr (s : State) :
    (s.setRangeErr).fieldOk = s.fieldOk := rfl
@[simp] theorem State.commonRead_setRangeErr (s : State) (y : Addr) :
    (s.setRangeErr).commonRead y = s.commonRead y := rfl
@[simp] theorem State.localRead_setRangeErr (s : State) (y : Nat) :
    (s.setRangeErr).localRead y = s.localRead y := rfl
@[simp] theorem State.semFlag_setRangeErr (s : State) :
    (s.setRangeErr).semFlag = s.semFlag := rfl

@[simp] theorem State.setFloatErr_aReg (s : State) :
    (s.setFloatErr).aReg = s.aReg := rfl
@[simp] theorem State.setFloatErr_sReg (s : State) :
    (s.setFloatErr).sReg = s.sReg := rfl
@[simp] theorem State.setFloatErr_vReg (s : State) :
    (s.setFloatErr).vReg = s.vReg := rfl
@[simp] theorem State.setFloatErr_vl (s : State) :
    (s.setFloatErr).vl = s.vl := rfl
@[simp] theorem State.setFloatErr_vm (s : State) :
    (s.setFloatErr).vm = s.vm := rfl
@[simp] theorem State.setFloatErr_p (s : State) :
    (s.setFloatErr).p = s.p := rfl
@[simp] theorem State.setFloatErr_ba (s : State) :
    (s.setFloatErr).ba = s.ba := rfl
@[simp] theorem State.setFloatErr_la (s : State) :
    (s.setFloatErr).la = s.la := rfl
@[simp] theorem State.setFloatErr_rtc (s : State) :
    (s.setFloatErr).rtc = s.rtc := rfl
@[simp] theorem State.setFloatErr_st (s : State) :
    (s.setFloatErr).st = { s.st with floatErr := true } := rfl
@[simp] theorem State.setFloatErr_sem (s : State) :
    (s.setFloatErr).sem = s.sem := rfl
@[simp] theorem State.setFloatErr_run (s : State) :
    (s.setFloatErr).run = s.run := rfl
@[simp] theorem State.setFloatErr_lm (s : State) :
    (s.setFloatErr).lm = s.lm := rfl
@[simp] theorem State.setFloatErr_cm (s : State) :
    (s.setFloatErr).cm = s.cm := rfl
@[simp] theorem State.setFloatErr_written (s : State) :
    (s.setFloatErr).written = s.written := rfl
@[simp] theorem State.setFloatErr_ibuf (s : State) :
    (s.setFloatErr).ibuf = s.ibuf := rfl
@[simp] theorem State.setFloatErr_freeIndex (s : State) :
    (s.setFloatErr).freeIndex = s.freeIndex := rfl
@[simp] theorem State.getA_setFloatErr (s : State) (q : Reg) :
    (s.setFloatErr).getA q = s.getA q := rfl
@[simp] theorem State.getS_setFloatErr (s : State) (q : Reg) :
    (s.setFloatErr).getS q = s.getS q := rfl
@[simp] theorem State.elem_setFloatErr (s : State) (q : Reg) (e : Nat) :
    (s.setFloatErr).elem q e = s.elem q e := rfl
@[simp] theorem State.vlen_setFloatErr (s : State) :
    (s.setFloatErr).vlen = s.vlen := rfl
@[simp] theorem State.absolute_setFloatErr (s : State) (y : Addr) :
    (s.setFloatErr).absolute y = s.absolute y := rfl
@[simp] theorem State.inField_setFloatErr (s : State) (y : Addr) :
    (s.setFloatErr).inField y = s.inField y := rfl
@[simp] theorem State.rangeBad_setFloatErr (s : State) (y : Addr) :
    (s.setFloatErr).rangeBad y = s.rangeBad y := rfl
@[simp] theorem State.fieldOk_setFloatErr (s : State) :
    (s.setFloatErr).fieldOk = s.fieldOk := rfl
@[simp] theorem State.commonRead_setFloatErr (s : State) (y : Addr) :
    (s.setFloatErr).commonRead y = s.commonRead y := rfl
@[simp] theorem State.localRead_setFloatErr (s : State) (y : Nat) :
    (s.setFloatErr).localRead y = s.localRead y := rfl
@[simp] theorem State.semFlag_setFloatErr (s : State) :
    (s.setFloatErr).semFlag = s.semFlag := rfl

@[simp] theorem State.setSemFlag_aReg (s : State) (b : Bool) :
    (s.setSemFlag b).aReg = s.aReg := rfl
@[simp] theorem State.setSemFlag_sReg (s : State) (b : Bool) :
    (s.setSemFlag b).sReg = s.sReg := rfl
@[simp] theorem State.setSemFlag_vReg (s : State) (b : Bool) :
    (s.setSemFlag b).vReg = s.vReg := rfl
@[simp] theorem State.setSemFlag_vl (s : State) (b : Bool) :
    (s.setSemFlag b).vl = s.vl := rfl
@[simp] theorem State.setSemFlag_vm (s : State) (b : Bool) :
    (s.setSemFlag b).vm = s.vm := rfl
@[simp] theorem State.setSemFlag_p (s : State) (b : Bool) :
    (s.setSemFlag b).p = s.p := rfl
@[simp] theorem State.setSemFlag_ba (s : State) (b : Bool) :
    (s.setSemFlag b).ba = s.ba := rfl
@[simp] theorem State.setSemFlag_la (s : State) (b : Bool) :
    (s.setSemFlag b).la = s.la := rfl
@[simp] theorem State.setSemFlag_rtc (s : State) (b : Bool) :
    (s.setSemFlag b).rtc = s.rtc := rfl
@[simp] theorem State.setSemFlag_st (s : State) (b : Bool) :
    (s.setSemFlag b).st = s.st := rfl
@[simp] theorem State.setSemFlag_sem (s : State) (b : Bool) :
    (s.setSemFlag b).sem = s.sem.set s.st.semPtr.toNat b := rfl
@[simp] theorem State.setSemFlag_run (s : State) (b : Bool) :
    (s.setSemFlag b).run = s.run := rfl
@[simp] theorem State.setSemFlag_lm (s : State) (b : Bool) :
    (s.setSemFlag b).lm = s.lm := rfl
@[simp] theorem State.setSemFlag_cm (s : State) (b : Bool) :
    (s.setSemFlag b).cm = s.cm := rfl
@[simp] theorem State.setSemFlag_written (s : State) (b : Bool) :
    (s.setSemFlag b).written = s.written := rfl
@[simp] theorem State.setSemFlag_ibuf (s : State) (b : Bool) :
    (s.setSemFlag b).ibuf = s.ibuf := rfl
@[simp] theorem State.setSemFlag_freeIndex (s : State) (b : Bool) :
    (s.setSemFlag b).freeIndex = s.freeIndex := rfl
@[simp] theorem State.getA_setSemFlag (s : State) (b : Bool) (q : Reg) :
    (s.setSemFlag b).getA q = s.getA q := rfl
@[simp] theorem State.getS_setSemFlag (s : State) (b : Bool) (q : Reg) :
    (s.setSemFlag b).getS q = s.getS q := rfl
@[simp] theorem State.elem_setSemFlag (s : State) (b : Bool) (q : Reg) (e : Nat) :
    (s.setSemFlag b).elem q e = s.elem q e := rfl
@[simp] theorem State.vlen_setSemFlag (s : State) (b : Bool) :
    (s.setSemFlag b).vlen = s.vlen := rfl
@[simp] theorem State.absolute_setSemFlag (s : State) (b : Bool) (y : Addr) :
    (s.setSemFlag b).absolute y = s.absolute y := rfl
@[simp] theorem State.inField_setSemFlag (s : State) (b : Bool) (y : Addr) :
    (s.setSemFlag b).inField y = s.inField y := rfl
@[simp] theorem State.rangeBad_setSemFlag (s : State) (b : Bool) (y : Addr) :
    (s.setSemFlag b).rangeBad y = s.rangeBad y := rfl
@[simp] theorem State.fieldOk_setSemFlag (s : State) (b : Bool) :
    (s.setSemFlag b).fieldOk = s.fieldOk := rfl
@[simp] theorem State.commonRead_setSemFlag (s : State) (b : Bool) (y : Addr) :
    (s.setSemFlag b).commonRead y = s.commonRead y := rfl
@[simp] theorem State.localRead_setSemFlag (s : State) (b : Bool) (y : Nat) :
    (s.setSemFlag b).localRead y = s.localRead y := rfl

@[simp] theorem State.takeSem_aReg (s : State) :
    (s.takeSem).aReg = s.aReg := rfl
@[simp] theorem State.takeSem_sReg (s : State) :
    (s.takeSem).sReg = s.sReg := rfl
@[simp] theorem State.takeSem_vReg (s : State) :
    (s.takeSem).vReg = s.vReg := rfl
@[simp] theorem State.takeSem_vl (s : State) :
    (s.takeSem).vl = s.vl := rfl
@[simp] theorem State.takeSem_vm (s : State) :
    (s.takeSem).vm = s.vm := rfl
@[simp] theorem State.takeSem_p (s : State) :
    (s.takeSem).p = s.p := rfl
@[simp] theorem State.takeSem_ba (s : State) :
    (s.takeSem).ba = s.ba := rfl
@[simp] theorem State.takeSem_la (s : State) :
    (s.takeSem).la = s.la := rfl
@[simp] theorem State.takeSem_rtc (s : State) :
    (s.takeSem).rtc = s.rtc := rfl
@[simp] theorem State.takeSem_st (s : State) :
    (s.takeSem).st = { s.st with semBit := s.st.semBit || !s.semFlag } := rfl
@[simp] theorem State.takeSem_sem (s : State) :
    (s.takeSem).sem = s.sem.set s.st.semPtr.toNat true := rfl
@[simp] theorem State.takeSem_run (s : State) :
    (s.takeSem).run = s.run := rfl
@[simp] theorem State.takeSem_lm (s : State) :
    (s.takeSem).lm = s.lm := rfl
@[simp] theorem State.takeSem_cm (s : State) :
    (s.takeSem).cm = s.cm := rfl
@[simp] theorem State.takeSem_written (s : State) :
    (s.takeSem).written = s.written := rfl
@[simp] theorem State.takeSem_ibuf (s : State) :
    (s.takeSem).ibuf = s.ibuf := rfl
@[simp] theorem State.takeSem_freeIndex (s : State) :
    (s.takeSem).freeIndex = s.freeIndex := rfl
@[simp] theorem State.getA_takeSem (s : State) (q : Reg) :
    (s.takeSem).getA q = s.getA q := rfl
@[simp] theorem State.getS_takeSem (s : State) (q : Reg) :
    (s.takeSem).getS q = s.getS q := rfl
@[simp] theorem State.elem_takeSem (s : State) (q : Reg) (e : Nat) :
    (s.takeSem).elem q e = s.elem q e := rfl
@[simp] theorem State.vlen_takeSem (s : State) :
    (s.takeSem).vlen = s.vlen := rfl
@[simp] theorem State.absolute_takeSem (s : State) (y : Addr) :
    (s.takeSem).absolute y = s.absolute y := rfl
@[simp] theorem State.inField_takeSem (s : State) (y : Addr) :
    (s.takeSem).inField y = s.inField y := rfl
@[simp] theorem State.rangeBad_takeSem (s : State) (y : Addr) :
    (s.takeSem).rangeBad y = s.rangeBad y := rfl
@[simp] theorem State.fieldOk_takeSem (s : State) :
    (s.takeSem).fieldOk = s.fieldOk := rfl
@[simp] theorem State.commonRead_takeSem (s : State) (y : Addr) :
    (s.takeSem).commonRead y = s.commonRead y := rfl
@[simp] theorem State.localRead_takeSem (s : State) (y : Nat) :
    (s.takeSem).localRead y = s.localRead y := rfl

@[simp] theorem State.releaseSem_aReg (s : State) :
    (s.releaseSem).aReg = s.aReg := rfl
@[simp] theorem State.releaseSem_sReg (s : State) :
    (s.releaseSem).sReg = s.sReg := rfl
@[simp] theorem State.releaseSem_vReg (s : State) :
    (s.releaseSem).vReg = s.vReg := rfl
@[simp] theorem State.releaseSem_vl (s : State) :
    (s.releaseSem).vl = s.vl := rfl
@[simp] theorem State.releaseSem_vm (s : State) :
    (s.releaseSem).vm = s.vm := rfl
@[simp] theorem State.releaseSem_p (s : State) :
    (s.releaseSem).p = s.p := rfl
@[simp] theorem State.releaseSem_ba (s : State) :
    (s.releaseSem).ba = s.ba := rfl
@[simp] theorem State.releaseSem_la (s : State) :
    (s.releaseSem).la = s.la := rfl
@[simp] theorem State.releaseSem_rtc (s : State) :
    (s.releaseSem).rtc = s.rtc := rfl
@[simp] theorem State.releaseSem_st (s : State) :
    (s.releaseSem).st = { s.st with semBit := false } := rfl
@[simp] theorem State.releaseSem_sem (s : State) :
    (s.releaseSem).sem = s.sem.set s.st.semPtr.toNat false := rfl
@[simp] theorem State.releaseSem_run (s : State) :
    (s.releaseSem).run = s.run := rfl
@[simp] theorem State.releaseSem_lm (s : State) :
    (s.releaseSem).lm = s.lm := rfl
@[simp] theorem State.releaseSem_cm (s : State) :
    (s.releaseSem).cm = s.cm := rfl
@[simp] theorem State.releaseSem_written (s : State) :
    (s.releaseSem).written = s.written := rfl
@[simp] theorem State.releaseSem_ibuf (s : State) :
    (s.releaseSem).ibuf = s.ibuf := rfl
@[simp] theorem State.releaseSem_freeIndex (s : State) :
    (s.releaseSem).freeIndex = s.freeIndex := rfl
@[simp] theorem State.getA_releaseSem (s : State) (q : Reg) :
    (s.releaseSem).getA q = s.getA q := rfl
@[simp] theorem State.getS_releaseSem (s : State) (q : Reg) :
    (s.releaseSem).getS q = s.getS q := rfl
@[simp] theorem State.elem_releaseSem (s : State) (q : Reg) (e : Nat) :
    (s.releaseSem).elem q e = s.elem q e := rfl
@[simp] theorem State.vlen_releaseSem (s : State) :
    (s.releaseSem).vlen = s.vlen := rfl
@[simp] theorem State.absolute_releaseSem (s : State) (y : Addr) :
    (s.releaseSem).absolute y = s.absolute y := rfl
@[simp] theorem State.inField_releaseSem (s : State) (y : Addr) :
    (s.releaseSem).inField y = s.inField y := rfl
@[simp] theorem State.rangeBad_releaseSem (s : State) (y : Addr) :
    (s.releaseSem).rangeBad y = s.rangeBad y := rfl
@[simp] theorem State.fieldOk_releaseSem (s : State) :
    (s.releaseSem).fieldOk = s.fieldOk := rfl
@[simp] theorem State.commonRead_releaseSem (s : State) (y : Addr) :
    (s.releaseSem).commonRead y = s.commonRead y := rfl
@[simp] theorem State.localRead_releaseSem (s : State) (y : Nat) :
    (s.releaseSem).localRead y = s.localRead y := rfl

@[simp] theorem State.tick_aReg (s : State) :
    (s.tick).aReg = s.aReg := rfl
@[simp] theorem State.tick_sReg (s : State) :
    (s.tick).sReg = s.sReg := rfl
@[simp] theorem State.tick_vReg (s : State) :
    (s.tick).vReg = s.vReg := rfl
@[simp] theorem State.tick_vl (s : State) :
    (s.tick).vl = s.vl := rfl
@[simp] theorem State.tick_vm (s : State) :
    (s.tick).vm = s.vm := rfl
@[simp] theorem State.tick_p (s : State) :
    (s.tick).p = s.p := rfl
@[simp] theorem State.tick_ba (s : State) :
    (s.tick).ba = s.ba := rfl
@[simp] theorem State.tick_la (s : State) :
    (s.tick).la = s.la := rfl
@[simp] theorem State.tick_rtc (s : State) :
    (s.tick).rtc = s.clockNext := rfl
@[simp] theorem State.tick_st (s : State) :
    (s.tick).st = s.st := rfl
@[simp] theorem State.tick_sem (s : State) :
    (s.tick).sem = s.sem := rfl
@[simp] theorem State.tick_run (s : State) :
    (s.tick).run = s.run := rfl
@[simp] theorem State.tick_lm (s : State) :
    (s.tick).lm = s.lm := rfl
@[simp] theorem State.tick_cm (s : State) :
    (s.tick).cm = s.cm := rfl
@[simp] theorem State.tick_written (s : State) :
    (s.tick).written = s.written := rfl
@[simp] theorem State.tick_ibuf (s : State) :
    (s.tick).ibuf = s.ibuf := rfl
@[simp] theorem State.tick_freeIndex (s : State) :
    (s.tick).freeIndex = s.freeIndex + 1 := rfl
@[simp] theorem State.getA_tick (s : State) (q : Reg) :
    (s.tick).getA q = s.getA q := rfl
@[simp] theorem State.getS_tick (s : State) (q : Reg) :
    (s.tick).getS q = s.getS q := rfl
@[simp] theorem State.elem_tick (s : State) (q : Reg) (e : Nat) :
    (s.tick).elem q e = s.elem q e := rfl
@[simp] theorem State.vlen_tick (s : State) :
    (s.tick).vlen = s.vlen := rfl
@[simp] theorem State.absolute_tick (s : State) (y : Addr) :
    (s.tick).absolute y = s.absolute y := rfl
@[simp] theorem State.inField_tick (s : State) (y : Addr) :
    (s.tick).inField y = s.inField y := rfl
@[simp] theorem State.rangeBad_tick (s : State) (y : Addr) :
    (s.tick).rangeBad y = s.rangeBad y := rfl
@[simp] theorem State.fieldOk_tick (s : State) :
    (s.tick).fieldOk = s.fieldOk := rfl
@[simp] theorem State.commonRead_tick (s : State) (y : Addr) :
    (s.tick).commonRead y = s.commonRead y := rfl
@[simp] theorem State.localRead_tick (s : State) (y : Nat) :
    (s.tick).localRead y = s.localRead y := rfl
@[simp] theorem State.semFlag_tick (s : State) :
    (s.tick).semFlag = s.semFlag := rfl

@[simp] theorem State.storeLocal_aReg (s : State) (a : Nat) (x : Word) :
    (s.storeLocal a x).aReg = s.aReg := rfl
@[simp] theorem State.storeLocal_sReg (s : State) (a : Nat) (x : Word) :
    (s.storeLocal a x).sReg = s.sReg := rfl
@[simp] theorem State.storeLocal_vReg (s : State) (a : Nat) (x : Word) :
    (s.storeLocal a x).vReg = s.vReg := rfl
@[simp] theorem State.storeLocal_vl (s : State) (a : Nat) (x : Word) :
    (s.storeLocal a x).vl = s.vl := rfl
@[simp] theorem State.storeLocal_vm (s : State) (a : Nat) (x : Word) :
    (s.storeLocal a x).vm = s.vm := rfl
@[simp] theorem State.storeLocal_p (s : State) (a : Nat) (x : Word) :
    (s.storeLocal a x).p = s.p := rfl
@[simp] theorem State.storeLocal_ba (s : State) (a : Nat) (x : Word) :
    (s.storeLocal a x).ba = s.ba := rfl
@[simp] theorem State.storeLocal_la (s : State) (a : Nat) (x : Word) :
    (s.storeLocal a x).la = s.la := rfl
@[simp] theorem State.storeLocal_rtc (s : State) (a : Nat) (x : Word) :
    (s.storeLocal a x).rtc = s.rtc := rfl
@[simp] theorem State.storeLocal_st (s : State) (a : Nat) (x : Word) :
    (s.storeLocal a x).st = s.st := rfl
@[simp] theorem State.storeLocal_sem (s : State) (a : Nat) (x : Word) :
    (s.storeLocal a x).sem = s.sem := rfl
@[simp] theorem State.storeLocal_run (s : State) (a : Nat) (x : Word) :
    (s.storeLocal a x).run = s.run := rfl
@[simp] theorem State.storeLocal_lm (s : State) (a : Nat) (x : Word) :
    (s.storeLocal a x).lm = Memory.writeWord s.lm a x := rfl
@[simp] theorem State.storeLocal_cm (s : State) (a : Nat) (x : Word) :
    (s.storeLocal a x).cm = s.cm := rfl
@[simp] theorem State.storeLocal_written (s : State) (a : Nat) (x : Word) :
    (s.storeLocal a x).written = s.written := rfl
@[simp] theorem State.storeLocal_ibuf (s : State) (a : Nat) (x : Word) :
    (s.storeLocal a x).ibuf = s.ibuf := rfl
@[simp] theorem State.storeLocal_freeIndex (s : State) (a : Nat) (x : Word) :
    (s.storeLocal a x).freeIndex = s.freeIndex := rfl
@[simp] theorem State.getA_storeLocal (s : State) (a : Nat) (x : Word) (q : Reg) :
    (s.storeLocal a x).getA q = s.getA q := rfl
@[simp] theorem State.getS_storeLocal (s : State) (a : Nat) (x : Word) (q : Reg) :
    (s.storeLocal a x).getS q = s.getS q := rfl
@[simp] theorem State.elem_storeLocal (s : State) (a : Nat) (x : Word) (q : Reg) (e : Nat) :
    (s.storeLocal a x).elem q e = s.elem q e := rfl
@[simp] theorem State.vlen_storeLocal (s : State) (a : Nat) (x : Word) :
    (s.storeLocal a x).vlen = s.vlen := rfl
@[simp] theorem State.absolute_storeLocal (s : State) (a : Nat) (x : Word) (y : Addr) :
    (s.storeLocal a x).absolute y = s.absolute y := rfl
@[simp] theorem State.inField_storeLocal (s : State) (a : Nat) (x : Word) (y : Addr) :
    (s.storeLocal a x).inField y = s.inField y := rfl
@[simp] theorem State.rangeBad_storeLocal (s : State) (a : Nat) (x : Word) (y : Addr) :
    (s.storeLocal a x).rangeBad y = s.rangeBad y := rfl
@[simp] theorem State.fieldOk_storeLocal (s : State) (a : Nat) (x : Word) :
    (s.storeLocal a x).fieldOk = s.fieldOk := rfl
@[simp] theorem State.commonRead_storeLocal (s : State) (a : Nat) (x : Word) (y : Addr) :
    (s.storeLocal a x).commonRead y = s.commonRead y := rfl
@[simp] theorem State.semFlag_storeLocal (s : State) (a : Nat) (x : Word) :
    (s.storeLocal a x).semFlag = s.semFlag := rfl

@[simp] theorem State.storeCommon_aReg (s : State) (a : Nat) (x : Word) :
    (s.storeCommon a x).aReg = s.aReg := rfl
@[simp] theorem State.storeCommon_sReg (s : State) (a : Nat) (x : Word) :
    (s.storeCommon a x).sReg = s.sReg := rfl
@[simp] theorem State.storeCommon_vReg (s : State) (a : Nat) (x : Word) :
    (s.storeCommon a x).vReg = s.vReg := rfl
@[simp] theorem State.storeCommon_vl (s : State) (a : Nat) (x : Word) :
    (s.storeCommon a x).vl = s.vl := rfl
@[simp] theorem State.storeCommon_vm (s : State) (a : Nat) (x : Word) :
    (s.storeCommon a x).vm = s.vm := rfl
@[simp] theorem State.storeCommon_p (s : State) (a : Nat) (x : Word) :
    (s.storeCommon a x).p = s.p := rfl
@[simp] theorem State.storeCommon_ba (s : State) (a : Nat) (x : Word) :
    (s.storeCommon a x).ba = s.ba := rfl
@[simp] theorem State.storeCommon_la (s : State) (a : Nat) (x : Word) :
    (s.storeCommon a x).la = s.la := rfl
@[simp] theorem State.storeCommon_rtc (s : State) (a : Nat) (x : Word) :
    (s.storeCommon a x).rtc = s.rtc := rfl
@[simp] theorem State.storeCommon_st (s : State) (a : Nat) (x : Word) :
    (s.storeCommon a x).st = s.st := rfl
@[simp] theorem State.storeCommon_sem (s : State) (a : Nat) (x : Word) :
    (s.storeCommon a x).sem = s.sem := rfl
@[simp] theorem State.storeCommon_run (s : State) (a : Nat) (x : Word) :
    (s.storeCommon a x).run = s.run := rfl
@[simp] theorem State.storeCommon_lm (s : State) (a : Nat) (x : Word) :
    (s.storeCommon a x).lm = s.lm := rfl
@[simp] theorem State.storeCommon_cm (s : State) (a : Nat) (x : Word) :
    (s.storeCommon a x).cm = Memory.writeWord s.cm a x := rfl
@[simp] theorem State.storeCommon_written (s : State) (a : Nat) (x : Word) :
    (s.storeCommon a x).written = insertAddress a s.written := rfl
@[simp] theorem State.storeCommon_ibuf (s : State) (a : Nat) (x : Word) :
    (s.storeCommon a x).ibuf = s.ibuf := rfl
@[simp] theorem State.storeCommon_freeIndex (s : State) (a : Nat) (x : Word) :
    (s.storeCommon a x).freeIndex = s.freeIndex := rfl
@[simp] theorem State.getA_storeCommon (s : State) (a : Nat) (x : Word) (q : Reg) :
    (s.storeCommon a x).getA q = s.getA q := rfl
@[simp] theorem State.getS_storeCommon (s : State) (a : Nat) (x : Word) (q : Reg) :
    (s.storeCommon a x).getS q = s.getS q := rfl
@[simp] theorem State.elem_storeCommon (s : State) (a : Nat) (x : Word) (q : Reg) (e : Nat) :
    (s.storeCommon a x).elem q e = s.elem q e := rfl
@[simp] theorem State.vlen_storeCommon (s : State) (a : Nat) (x : Word) :
    (s.storeCommon a x).vlen = s.vlen := rfl
@[simp] theorem State.absolute_storeCommon (s : State) (a : Nat) (x : Word) (y : Addr) :
    (s.storeCommon a x).absolute y = s.absolute y := rfl
@[simp] theorem State.inField_storeCommon (s : State) (a : Nat) (x : Word) (y : Addr) :
    (s.storeCommon a x).inField y = s.inField y := rfl
@[simp] theorem State.rangeBad_storeCommon (s : State) (a : Nat) (x : Word) (y : Addr) :
    (s.storeCommon a x).rangeBad y = s.rangeBad y := rfl
@[simp] theorem State.fieldOk_storeCommon (s : State) (a : Nat) (x : Word) :
    (s.storeCommon a x).fieldOk = s.fieldOk := rfl
@[simp] theorem State.localRead_storeCommon (s : State) (a : Nat) (x : Word) (y : Nat) :
    (s.storeCommon a x).localRead y = s.localRead y := rfl
@[simp] theorem State.semFlag_storeCommon (s : State) (a : Nat) (x : Word) :
    (s.storeCommon a x).semFlag = s.semFlag := rfl

@[simp] theorem State.setStatus_aReg (s : State) (x : Status) :
    (s.setStatus x).aReg = s.aReg := rfl
@[simp] theorem State.setStatus_sReg (s : State) (x : Status) :
    (s.setStatus x).sReg = s.sReg := rfl
@[simp] theorem State.setStatus_vReg (s : State) (x : Status) :
    (s.setStatus x).vReg = s.vReg := rfl
@[simp] theorem State.setStatus_vl (s : State) (x : Status) :
    (s.setStatus x).vl = s.vl := rfl
@[simp] theorem State.setStatus_vm (s : State) (x : Status) :
    (s.setStatus x).vm = s.vm := rfl
@[simp] theorem State.setStatus_p (s : State) (x : Status) :
    (s.setStatus x).p = s.p := rfl
@[simp] theorem State.setStatus_ba (s : State) (x : Status) :
    (s.setStatus x).ba = s.ba := rfl
@[simp] theorem State.setStatus_la (s : State) (x : Status) :
    (s.setStatus x).la = s.la := rfl
@[simp] theorem State.setStatus_rtc (s : State) (x : Status) :
    (s.setStatus x).rtc = s.rtc := rfl
@[simp] theorem State.setStatus_st (s : State) (x : Status) :
    (s.setStatus x).st = x := rfl
@[simp] theorem State.setStatus_sem (s : State) (x : Status) :
    (s.setStatus x).sem = s.sem := rfl
@[simp] theorem State.setStatus_run (s : State) (x : Status) :
    (s.setStatus x).run = s.run := rfl
@[simp] theorem State.setStatus_lm (s : State) (x : Status) :
    (s.setStatus x).lm = s.lm := rfl
@[simp] theorem State.setStatus_cm (s : State) (x : Status) :
    (s.setStatus x).cm = s.cm := rfl
@[simp] theorem State.setStatus_written (s : State) (x : Status) :
    (s.setStatus x).written = s.written := rfl
@[simp] theorem State.setStatus_ibuf (s : State) (x : Status) :
    (s.setStatus x).ibuf = s.ibuf := rfl
@[simp] theorem State.setStatus_freeIndex (s : State) (x : Status) :
    (s.setStatus x).freeIndex = s.freeIndex := rfl
@[simp] theorem State.getA_setStatus (s : State) (x : Status) (q : Reg) :
    (s.setStatus x).getA q = s.getA q := rfl
@[simp] theorem State.getS_setStatus (s : State) (x : Status) (q : Reg) :
    (s.setStatus x).getS q = s.getS q := rfl
@[simp] theorem State.elem_setStatus (s : State) (x : Status) (q : Reg) (e : Nat) :
    (s.setStatus x).elem q e = s.elem q e := rfl
@[simp] theorem State.vlen_setStatus (s : State) (x : Status) :
    (s.setStatus x).vlen = s.vlen := rfl
@[simp] theorem State.absolute_setStatus (s : State) (x : Status) (y : Addr) :
    (s.setStatus x).absolute y = s.absolute y := rfl
@[simp] theorem State.inField_setStatus (s : State) (x : Status) (y : Addr) :
    (s.setStatus x).inField y = s.inField y := rfl
@[simp] theorem State.rangeBad_setStatus (s : State) (x : Status) (y : Addr) :
    (s.setStatus x).rangeBad y = s.rangeBad y := rfl
@[simp] theorem State.fieldOk_setStatus (s : State) (x : Status) :
    (s.setStatus x).fieldOk = s.fieldOk := rfl
@[simp] theorem State.commonRead_setStatus (s : State) (x : Status) (y : Addr) :
    (s.setStatus x).commonRead y = s.commonRead y := rfl
@[simp] theorem State.localRead_setStatus (s : State) (x : Status) (y : Nat) :
    (s.setStatus x).localRead y = s.localRead y := rfl

@[simp] theorem State.setElem_aReg (s : State) (r : Reg) (e : BitVec 6) (x : Word) :
    (s.setElem r e x).aReg = s.aReg := rfl
@[simp] theorem State.setElem_sReg (s : State) (r : Reg) (e : BitVec 6) (x : Word) :
    (s.setElem r e x).sReg = s.sReg := rfl
@[simp] theorem State.setElem_vl (s : State) (r : Reg) (e : BitVec 6) (x : Word) :
    (s.setElem r e x).vl = s.vl := rfl
@[simp] theorem State.setElem_vm (s : State) (r : Reg) (e : BitVec 6) (x : Word) :
    (s.setElem r e x).vm = s.vm := rfl
@[simp] theorem State.setElem_p (s : State) (r : Reg) (e : BitVec 6) (x : Word) :
    (s.setElem r e x).p = s.p := rfl
@[simp] theorem State.setElem_ba (s : State) (r : Reg) (e : BitVec 6) (x : Word) :
    (s.setElem r e x).ba = s.ba := rfl
@[simp] theorem State.setElem_la (s : State) (r : Reg) (e : BitVec 6) (x : Word) :
    (s.setElem r e x).la = s.la := rfl
@[simp] theorem State.setElem_rtc (s : State) (r : Reg) (e : BitVec 6) (x : Word) :
    (s.setElem r e x).rtc = s.rtc := rfl
@[simp] theorem State.setElem_st (s : State) (r : Reg) (e : BitVec 6) (x : Word) :
    (s.setElem r e x).st = s.st := rfl
@[simp] theorem State.setElem_sem (s : State) (r : Reg) (e : BitVec 6) (x : Word) :
    (s.setElem r e x).sem = s.sem := rfl
@[simp] theorem State.setElem_run (s : State) (r : Reg) (e : BitVec 6) (x : Word) :
    (s.setElem r e x).run = s.run := rfl
@[simp] theorem State.setElem_lm (s : State) (r : Reg) (e : BitVec 6) (x : Word) :
    (s.setElem r e x).lm = s.lm := rfl
@[simp] theorem State.setElem_cm (s : State) (r : Reg) (e : BitVec 6) (x : Word) :
    (s.setElem r e x).cm = s.cm := rfl
@[simp] theorem State.setElem_written (s : State) (r : Reg) (e : BitVec 6) (x : Word) :
    (s.setElem r e x).written = s.written := rfl
@[simp] theorem State.setElem_ibuf (s : State) (r : Reg) (e : BitVec 6) (x : Word) :
    (s.setElem r e x).ibuf = s.ibuf := rfl
@[simp] theorem State.setElem_freeIndex (s : State) (r : Reg) (e : BitVec 6) (x : Word) :
    (s.setElem r e x).freeIndex = s.freeIndex := rfl
@[simp] theorem State.getA_setElem (s : State) (r : Reg) (e : BitVec 6) (x : Word) (q : Reg) :
    (s.setElem r e x).getA q = s.getA q := rfl
@[simp] theorem State.getS_setElem (s : State) (r : Reg) (e : BitVec 6) (x : Word) (q : Reg) :
    (s.setElem r e x).getS q = s.getS q := rfl
@[simp] theorem State.vlen_setElem (s : State) (r : Reg) (e : BitVec 6) (x : Word) :
    (s.setElem r e x).vlen = s.vlen := rfl
@[simp] theorem State.absolute_setElem (s : State) (r : Reg) (e : BitVec 6) (x : Word) (y : Addr) :
    (s.setElem r e x).absolute y = s.absolute y := rfl
@[simp] theorem State.inField_setElem (s : State) (r : Reg) (e : BitVec 6) (x : Word) (y : Addr) :
    (s.setElem r e x).inField y = s.inField y := rfl
@[simp] theorem State.rangeBad_setElem (s : State) (r : Reg) (e : BitVec 6) (x : Word) (y : Addr) :
    (s.setElem r e x).rangeBad y = s.rangeBad y := rfl
@[simp] theorem State.fieldOk_setElem (s : State) (r : Reg) (e : BitVec 6) (x : Word) :
    (s.setElem r e x).fieldOk = s.fieldOk := rfl
@[simp] theorem State.commonRead_setElem (s : State) (r : Reg) (e : BitVec 6) (x : Word) (y : Addr) :
    (s.setElem r e x).commonRead y = s.commonRead y := rfl
@[simp] theorem State.localRead_setElem (s : State) (r : Reg) (e : BitVec 6) (x : Word) (y : Nat) :
    (s.setElem r e x).localRead y = s.localRead y := rfl
@[simp] theorem State.semFlag_setElem (s : State) (r : Reg) (e : BitVec 6) (x : Word) :
    (s.setElem r e x).semFlag = s.semFlag := rfl

@[simp] theorem State.fill_aReg (s : State) (n : Nat) :
    (s.fill n).aReg = s.aReg := rfl
@[simp] theorem State.fill_sReg (s : State) (n : Nat) :
    (s.fill n).sReg = s.sReg := rfl
@[simp] theorem State.fill_vReg (s : State) (n : Nat) :
    (s.fill n).vReg = s.vReg := rfl
@[simp] theorem State.fill_vl (s : State) (n : Nat) :
    (s.fill n).vl = s.vl := rfl
@[simp] theorem State.fill_vm (s : State) (n : Nat) :
    (s.fill n).vm = s.vm := rfl
@[simp] theorem State.fill_p (s : State) (n : Nat) :
    (s.fill n).p = s.p := rfl
@[simp] theorem State.fill_ba (s : State) (n : Nat) :
    (s.fill n).ba = s.ba := rfl
@[simp] theorem State.fill_la (s : State) (n : Nat) :
    (s.fill n).la = s.la := rfl
@[simp] theorem State.fill_rtc (s : State) (n : Nat) :
    (s.fill n).rtc = s.rtc := rfl
@[simp] theorem State.fill_st (s : State) (n : Nat) :
    (s.fill n).st = s.st := rfl
@[simp] theorem State.fill_sem (s : State) (n : Nat) :
    (s.fill n).sem = s.sem := rfl
@[simp] theorem State.fill_run (s : State) (n : Nat) :
    (s.fill n).run = s.run := rfl
@[simp] theorem State.fill_lm (s : State) (n : Nat) :
    (s.fill n).lm = s.lm := rfl
@[simp] theorem State.fill_cm (s : State) (n : Nat) :
    (s.fill n).cm = s.cm := rfl
@[simp] theorem State.fill_written (s : State) (n : Nat) :
    (s.fill n).written = s.written := rfl
@[simp] theorem State.fill_ibuf (s : State) (n : Nat) :
    (s.fill n).ibuf = fillBlocks n s.p s.ibuf := rfl
@[simp] theorem State.fill_freeIndex (s : State) (n : Nat) :
    (s.fill n).freeIndex = s.freeIndex := rfl
@[simp] theorem State.getA_fill (s : State) (n : Nat) (q : Reg) :
    (s.fill n).getA q = s.getA q := rfl
@[simp] theorem State.getS_fill (s : State) (n : Nat) (q : Reg) :
    (s.fill n).getS q = s.getS q := rfl
@[simp] theorem State.elem_fill (s : State) (n : Nat) (q : Reg) (e : Nat) :
    (s.fill n).elem q e = s.elem q e := rfl
@[simp] theorem State.vlen_fill (s : State) (n : Nat) :
    (s.fill n).vlen = s.vlen := rfl
@[simp] theorem State.absolute_fill (s : State) (n : Nat) (y : Addr) :
    (s.fill n).absolute y = s.absolute y := rfl
@[simp] theorem State.inField_fill (s : State) (n : Nat) (y : Addr) :
    (s.fill n).inField y = s.inField y := rfl
@[simp] theorem State.rangeBad_fill (s : State) (n : Nat) (y : Addr) :
    (s.fill n).rangeBad y = s.rangeBad y := rfl
@[simp] theorem State.fieldOk_fill (s : State) (n : Nat) :
    (s.fill n).fieldOk = s.fieldOk := rfl
@[simp] theorem State.commonRead_fill (s : State) (n : Nat) (y : Addr) :
    (s.fill n).commonRead y = s.commonRead y := rfl
@[simp] theorem State.localRead_fill (s : State) (n : Nat) (y : Nat) :
    (s.fill n).localRead y = s.localRead y := rfl
@[simp] theorem State.semFlag_fill (s : State) (n : Nat) :
    (s.fill n).semFlag = s.semFlag := rfl

/-! ## A register read after it is written -/

@[simp] theorem State.getA_setA_same (s : State) (r : Reg) (x : Addr) : (s.setA r x).getA r = x := by
  simp only [State.getA, State.setA_aReg, Vector.getElem_set_self]

theorem State.getA_setA_ne (s : State) {r q : Reg} (x : Addr) (h : q ≠ r) : (s.setA r x).getA q = s.getA q := by
  have : r.toNat ≠ q.toNat := fun e => h (BitVec.eq_of_toNat_eq e.symm)
  simp only [State.getA, State.setA_aReg, Vector.getElem_set_ne _ _ this]

@[simp] theorem State.getS_setS_same (s : State) (r : Reg) (x : Word) : (s.setS r x).getS r = x := by
  simp only [State.getS, State.setS_sReg, Vector.getElem_set_self]

theorem State.getS_setS_ne (s : State) {r q : Reg} (x : Word) (h : q ≠ r) : (s.setS r x).getS q = s.getS q := by
  have : r.toNat ≠ q.toNat := fun e => h (BitVec.eq_of_toNat_eq e.symm)
  simp only [State.getS, State.setS_sReg, Vector.getElem_set_ne _ _ this]

/-- An element number past 63 reads as 0. -/
theorem State.elem_of_le (s : State) (q : Reg) {e : Nat} (h : 64 ≤ e) : s.elem q e = 0 := by
  simp only [State.elem, Array.getD_eq_getD_getElem?]
  rw [Array.getElem?_eq_none (by simpa using h)]
  rfl

theorem State.elem_eq (s : State) (q : Reg) {e : Nat} (h : e < 64) : s.elem q e = (s.vReg[q.toNat])[e] := by
  simp only [State.elem, Array.getD_eq_getD_getElem?]
  rw [Array.getElem?_eq_getElem (by simpa using h)]
  rfl

theorem State.elem_setV_ne (s : State) {r q : Reg} (n : Nat) (f : Nat → Word) (e : Nat) (h : q ≠ r) :
    (s.setV r n f).elem q e = s.elem q e := by
  have : r.toNat ≠ q.toNat := fun e => h (BitVec.eq_of_toNat_eq e.symm)
  simp only [State.elem, State.setV, Vector.getElem_set_ne _ _ this]

/-- After a write of the elements below `n`, those hold the new values and the others the old ones (R34). -/
theorem State.elem_setV_same (s : State) (r : Reg) (n : Nat) (f : Nat → Word) {e : Nat} (h : e < 64) :
    (s.setV r n f).elem r e = if e < n then f e else s.elem r e := by
  rw [State.elem_eq _ _ h]
  simp only [State.setV, Vector.getElem_set_self, Vector.getElem_ofFn]

theorem State.elem_setV_lt (s : State) (r : Reg) {n : Nat} (f : Nat → Word) {e : Nat} (h : e < n) (hn : n ≤ 64) :
    (s.setV r n f).elem r e = f e := by
  rw [State.elem_setV_same s r n f (by omega), if_pos h]

theorem State.elem_setV_ge (s : State) (r : Reg) {n : Nat} (f : Nat → Word) {e : Nat} (h : n ≤ e) :
    (s.setV r n f).elem r e = s.elem r e := by
  by_cases he : e < 64
  · rw [State.elem_setV_same s r n f he, if_neg (by omega)]
  · rw [State.elem_of_le _ _ (by omega), State.elem_of_le _ _ (by omega)]

/-- After a write of one element, that one holds the new value and the others the old ones. -/
theorem State.elem_setElem_same (s : State) (r : Reg) (n : BitVec 6) (x : Word) {e : Nat} (h : e < 64) :
    (s.setElem r n x).elem r e = if e = n.toNat then x else s.elem r e := by
  rw [State.elem_eq _ _ h, State.elem_eq _ _ h]
  simp only [State.setElem, Vector.getElem_set_self]
  by_cases he : e = n.toNat
  · subst he
    simp
  · rw [if_neg he, Vector.getElem_set_ne _ _ (Ne.symm he)]

theorem State.elem_setElem_ne (s : State) {r q : Reg} (n : BitVec 6) (x : Word) (e : Nat) (h : q ≠ r) :
    (s.setElem r n x).elem q e = s.elem q e := by
  have : r.toNat ≠ q.toNat := fun e => h (BitVec.eq_of_toNat_eq e.symm)
  simp only [State.elem, State.setElem, Vector.getElem_set_ne _ _ this]

/-- The vector length in effect is 1 to 64 (R32). -/
theorem State.vlen_bounds (s : State) : 1 ≤ s.vlen ∧ s.vlen ≤ 64 := by
  unfold State.vlen
  split
  · omega
  · next h =>
    have := s.vl.isLt
    have : s.vl.toNat ≠ 0 := fun e => h (BitVec.eq_of_toNat_eq e)
    omega

end Sys2Proof.Machine
end

