-- ==== Sys2Proof/Laws/Ops.lean ====
section
/-!
SUPPORT. One lemma per shared operation that says all it can do.
-/

namespace Sys2Proof.Machine

/-! ## Local Memory -/

theorem localIndex_of_lt {a : Nat} (h : a < Config.lmWords) : localIndex a = .ok a := by
  simp only [localIndex, if_pos h]

theorem localIndex_of_le {a : Nat} (h : Config.lmWords ≤ a) : localIndex a = .error .localAddress := by
  simp only [localIndex, if_neg (Nat.not_lt.2 h), Config.lmWrap]
  rfl

theorem localIndex_eq_ok {a x : Nat} (h : localIndex a = .ok x) : x = a ∧ a < Config.lmWords := by
  by_cases ha : a < Config.lmWords
  · rw [localIndex_of_lt ha] at h
    cases h
    exact ⟨rfl, ha⟩
  · rw [localIndex_of_le (Nat.le_of_not_lt ha)] at h
    cases h

/-- A Local Memory read of a written word at a legal address answers the word. -/
theorem State.localRead_of_word {s : State} {a : Nat} {w : Word} (ha : a < Config.lmWords)
    (hw : Memory.word? s.lm a = some w) : s.localRead a = .ok w := by
  simp only [State.localRead, localIndex_of_lt ha, hw]

/-- What a Local Memory read that answers a word has read. -/
theorem State.localRead_eq_ok {s : State} {a : Nat} {w : Word} (h : s.localRead a = .ok w) :
    a < Config.lmWords ∧ Memory.word? s.lm a = some w := by
  unfold State.localRead at h
  split at h
  · cases h
  · next x hx =>
    obtain ⟨rfl, ha⟩ := localIndex_eq_ok hx
    split at h
    · next v hv =>
      cases h
      exact ⟨ha, hv⟩
    · cases h

theorem State.localWrite_of_lt (s : State) {a : Nat} (v : Word) (ha : a < Config.lmWords) :
    s.localWrite a v = .ok (s.storeLocal a v) := by
  simp only [State.localWrite, localIndex_of_lt ha]

/-- All that a Local Memory write can do. -/
theorem State.localWrite_eq_ok {s t : State} {a : Nat} {v : Word} (h : s.localWrite a v = .ok t) :
    a < Config.lmWords ∧ t = s.storeLocal a v := by
  unfold State.localWrite at h
  split at h
  · cases h
  · next x hx =>
    obtain ⟨rfl, ha⟩ := localIndex_eq_ok hx
    cases h
    exact ⟨ha, rfl⟩

/-! ## Common Memory -/

/-- The field test as numbers (20_memory.md R69). -/
theorem State.rangeBad_eq_false {s : State} {rel : Addr} :
    s.rangeBad rel = false ↔ s.ba.toNat ≤ (s.absolute rel).toNat ∧ (s.absolute rel).toNat < s.la.toNat := by
  simp [State.rangeBad, State.inField, BitVec.le_def, BitVec.lt_def]

theorem State.commonRead_of_bad {s : State} {rel : Addr} (h : s.rangeBad rel = true) : s.commonRead rel = .ok 0 := by
  simp only [State.commonRead, h, if_true]

theorem State.commonRead_of_word {s : State} {rel : Addr} {w : Word} (h : s.rangeBad rel = false)
    (hc : (s.absolute rel).toNat < Config.cmWords) (hw : Memory.word? s.cm (s.absolute rel).toNat = some w) :
    s.commonRead rel = .ok w := by
  simp only [State.commonRead, h, if_pos hc, hw]
  rfl

/-- What a Common Memory read that answers a word has read. -/
theorem State.commonRead_eq_ok {s : State} {rel : Addr} {w : Word} (h : s.commonRead rel = .ok w) :
    (s.rangeBad rel = true ∧ w = 0) ∨
    (s.rangeBad rel = false ∧ (s.absolute rel).toNat < Config.cmWords ∧
      Memory.word? s.cm (s.absolute rel).toNat = some w) := by
  unfold State.commonRead at h
  split at h
  · next hb =>
    cases h
    exact .inl ⟨hb, rfl⟩
  · next hb =>
    split at h
    · next hc =>
      split at h
      · next v hv =>
        cases h
        exact .inr ⟨by simpa using hb, hc, hv⟩
      · cases h
    · cases h

theorem State.commonWrite_of_bad {s : State} {rel : Addr} (v : Word) (h : s.rangeBad rel = true) :
    s.commonWrite rel v = .ok s := by
  simp only [State.commonWrite, h, if_true]

theorem State.commonWrite_of_reaches {s : State} {rel : Addr} (v : Word) (h : s.rangeBad rel = false)
    (hc : (s.absolute rel).toNat < Config.cmWords) :
    s.commonWrite rel v = .ok (s.storeCommon (s.absolute rel).toNat v) := by
  simp only [State.commonWrite, h, if_pos hc]
  rfl

/-- All that a Common Memory write can do. -/
theorem State.commonWrite_eq_ok {s t : State} {rel : Addr} {v : Word} (h : s.commonWrite rel v = .ok t) :
    (s.rangeBad rel = true ∧ t = s) ∨
    (s.rangeBad rel = false ∧ (s.absolute rel).toNat < Config.cmWords ∧
      t = s.storeCommon (s.absolute rel).toNat v) := by
  unfold State.commonWrite at h
  split at h
  · next hb =>
    cases h
    exact .inl ⟨hb, rfl⟩
  · next hb =>
    split at h
    · next hc =>
      cases h
      exact .inr ⟨by simpa using hb, hc, rfl⟩
    · cases h

/-! ## Streams -/

/-- All that `collect` can answer: the values in order. -/
theorem collect_eq_ok {f : Nat → Except Fault Word} {n : Nat} {l : List Word} (h : collect f n = .ok l) :
    l.length = n ∧ ∀ e, e < n → f e = .ok (l.getD e 0) := by
  induction n generalizing l with
  | zero =>
    cases h
    exact ⟨rfl, fun e he => absurd he (Nat.not_lt_zero e)⟩
  | succ n ih =>
    simp only [collect] at h
    split at h
    · cases h
    · next k hk =>
      split at h
      · cases h
      · next w hw =>
        cases h
        obtain ⟨hl, hv⟩ := ih hk
        refine ⟨by simp [hl], fun e he => ?_⟩
        rcases Nat.lt_or_eq_of_le (Nat.lt_succ_iff.1 he) with he | rfl
        · rw [hv e he]
          simp [List.getD_eq_getElem?_getD, List.getElem?_append_left (hl ▸ he)]
        · rw [hw]
          simp [List.getD_eq_getElem?_getD, ← hl]

/-- `collect` answers where every element does. -/
theorem collect_of_ok {f : Nat → Except Fault Word} {n : Nat} (h : ∀ e, e < n → ∃ w, f e = .ok w) :
    ∃ l, collect f n = .ok l := by
  induction n with
  | zero => exact ⟨[], rfl⟩
  | succ n ih =>
    obtain ⟨l, hl⟩ := ih fun e he => h e (Nat.lt_succ_of_lt he)
    obtain ⟨w, hw⟩ := h n (Nat.lt_succ_self n)
    exact ⟨l ++ [w], by simp only [collect, hl, hw]⟩

/-- What holds before a sequence and is kept by each of its parts holds after it. -/
theorem sequence_keeps {f : Nat → State → Except Fault State} {P : Nat → State → Prop} {n : Nat} {s t : State}
    (h : sequence f n s = .ok t) (h0 : P 0 s)
    (hs : ∀ e u v, e < n → P e u → f e u = .ok v → P (e + 1) v) : P n t := by
  induction n generalizing t with
  | zero =>
    cases h
    exact h0
  | succ n ih =>
    simp only [sequence] at h
    split at h
    · cases h
    · next u hu =>
      exact hs n u t (Nat.lt_succ_self n)
        (ih hu fun e u v he => hs e u v (Nat.lt_succ_of_lt he)) h

/-- A sequence answers where each of its parts does from every state of an invariant. -/
theorem sequence_of_ok {f : Nat → State → Except Fault State} {P : Nat → State → Prop} {n : Nat} {s : State}
    (h0 : P 0 s) (hs : ∀ e u, e < n → P e u → ∃ v, f e u = .ok v ∧ P (e + 1) v) :
    ∃ t, sequence f n s = .ok t ∧ P n t := by
  induction n with
  | zero => exact ⟨s, rfl, h0⟩
  | succ n ih =>
    obtain ⟨u, hu, hP⟩ := ih fun e u he => hs e u (Nat.lt_succ_of_lt he)
    obtain ⟨v, hv, hv'⟩ := hs n u (Nat.lt_succ_self n) hP
    exact ⟨v, by simp only [sequence, hu, hv], hv'⟩

@[simp] theorem anyBelow_eq_true {f : Nat → Bool} {n : Nat} : anyBelow f n = true ↔ ∃ e, e < n ∧ f e = true := by
  induction n with
  | zero => simp [anyBelow]
  | succ n ih =>
    simp only [anyBelow, Bool.or_eq_true, ih]
    constructor
    · rintro (⟨e, he, h⟩ | h)
      · exact ⟨e, Nat.lt_succ_of_lt he, h⟩
      · exact ⟨n, Nat.lt_succ_self n, h⟩
    · rintro ⟨e, he, h⟩
      rcases Nat.lt_or_eq_of_le (Nat.lt_succ_iff.1 he) with he | rfl
      · exact .inl ⟨e, he, h⟩
      · exact .inr h

@[simp] theorem anyBelow_eq_false {f : Nat → Bool} {n : Nat} : anyBelow f n = false ↔ ∀ e, e < n → f e = false := by
  rw [← Bool.not_eq_true, anyBelow_eq_true]
  simp

/-! ## Masks, counts and positions -/

/-- The mask bit of each element is its test, below the count; the other bits are 0 (42_address_vm_vl.md R209). -/
theorem maskBit_maskOf (test : Nat → Bool) {n e : Nat} (hn : n ≤ 64) (he : e < 64) :
    maskBit (maskOf test n) e = (decide (e < n) && test e) := by
  induction n with
  | zero => simp [maskOf, maskBit]
  | succ n ih =>
    have ih := ih (by omega)
    by_cases h : e = n
    · subst h
      cases ht : test e <;> simp_all [maskOf, maskBit, BitVec.getLsbD_shiftLeft]
      omega
    · have h1 : decide (e < n + 1) = decide (e < n) := by simp only [decide_eq_decide]; omega
      rw [h1, ← ih]
      simp only [maskOf, maskBit]
      split
      · have : (1#64 <<< (63 - n)).getLsbD (63 - e) = false := by
          rw [BitVec.getLsbD_shiftLeft]
          by_cases hlt : 63 - e < 63 - n
          · simp [hlt]
          · have : 63 - e - (63 - n) ≠ 0 := by omega
            simp [BitVec.getLsbD_one, this]
        simp [this]
      · rfl

theorem onesBelow_le (w : Word) (n : Nat) : onesBelow w n ≤ n := by
  induction n with
  | zero => simp [onesBelow]
  | succ n ih =>
    have := Bool.toNat_le (w.getLsbD n)
    simp only [onesBelow]
    omega

theorem popcount_le (w : Word) : popcount w ≤ 64 := onesBelow_le w 64

/-! ## Double shifts (R303, R304): the forms the rules name -/

theorem doubleLeft_of_le (hi lo : Word) {n : Nat} (h : 128 ≤ n) : doubleLeft hi lo n = 0 := if_pos h

theorem doubleRight_of_le (hi lo : Word) {n : Nat} (h : 128 ≤ n) : doubleRight hi lo n = 0 := if_pos h

/-! ## The clock -/

/-- A clock period or more later the clock holds more, unless it stood at its last value (60_exceptions.md R436 L5). -/
theorem State.clockNext_gt {s : State} (h : s.rtc.toNat < 2 ^ 64 - 1) : s.rtc.toNat < s.clockNext.toNat := by
  have hm := Nat.mod_lt (Config.extraClocks s.freeIndex) (y := 2 ^ 64 - 1 - s.rtc.toNat) (by omega)
  have h1 : (1 : Word).toNat = 1 := rfl
  rw [State.clockNext, BitVec.toNat_add, BitVec.toNat_add, BitVec.toNat_ofNat, h1]
  generalize Config.extraClocks s.freeIndex % (2 ^ 64 - 1 - s.rtc.toNat) = m at hm ⊢
  omega

/-! ## Events -/

@[simp] theorem State.signal_false (s : State) (e : Event) : s.signal e false = s := rfl

@[simp] theorem State.signal_true (s : State) (e : Event) : s.signal e true = s.raise e := rfl

theorem State.raise_rangeError_off {s : State} (h : s.st.enRangeHalt = false) :
    s.raise .rangeError = s.setRangeErr := by
  simp [State.raise, h]

theorem State.raise_rangeError_on {s : State} (h : s.st.enRangeHalt = true) :
    s.raise .rangeError = s.setRangeErr.halt := by
  simp [State.raise, h]

theorem State.raise_floatError_off {s : State} (h : s.st.enFloatHalt = false) : s.raise .floatError = s := by
  simp [State.raise, h]

theorem State.raise_floatError_on {s : State} (h : s.st.enFloatHalt = true) :
    s.raise .floatError = s.setFloatErr.halt := by
  simp [State.raise, h]

/-! ## Fetching -/

/-- What a fetch of a parcel that answers has read. -/
theorem State.fetchParcel_eq_ok {s : State} {p : Addr} {x : Parcel} (h : s.fetchParcel p = .ok x) :
    s.inField (s.parcelWord p) = true ∧ (s.parcelWord p).toNat < Config.cmWords ∧
      (s.parcelWord p).toNat ∉ s.written ∧
      ∃ w, Memory.word? s.cm (s.parcelWord p).toNat = some w ∧
        x = w.extractLsb' (parcelLow (parcelIndex p)) 16 := by
  unfold State.fetchParcel at h
  split at h
  · cases h
  · next hf =>
    split at h
    · cases h
    · next hc =>
      split at h
      · cases h
      · next hw =>
        split at h
        · next w hm =>
          cases h
          exact ⟨by simpa using hf, Nat.lt_of_not_le hc, by simpa using hw, w, hm, rfl⟩
        · cases h

theorem State.length_of_fetchParcels {s : State} {n : Nat} {p : Addr} {l : List Parcel}
    (h : s.fetchParcels n p = .ok l) : l.length = n := by
  induction n generalizing p l with
  | zero =>
    cases h
    rfl
  | succ n ih =>
    simp only [State.fetchParcels] at h
    split at h
    · cases h
    · split at h
      · cases h
      · next k hk =>
        cases h
        simp [ih hk]

/-- A block that comes into the buffer is in it, and the buffer keeps its size and holds no block twice. -/
theorem fillBlock_ok {b : BitVec 26} {l : List (BitVec 26)} (hl : l.length ≤ Config.bufferFields) (hn : l.Nodup) :
    (fillBlock b l).length ≤ Config.bufferFields ∧ (fillBlock b l).Nodup ∧ b ∈ fillBlock b l := by
  unfold fillBlock
  split
  · next h => exact ⟨hl, hn, by simpa using h⟩
  · next h =>
    have hb : b ∉ l := by simpa using h
    refine ⟨?_, ?_, by simp⟩
    · simp only [Config.bufferFields, List.length_append, List.length_drop, List.length_cons, List.length_nil] at *
      omega
    · refine List.nodup_append.2 ⟨hn.sublist (List.drop_sublist _ _), by simp, ?_⟩
      intro a ha c hc
      rw [List.mem_singleton.1 hc]
      intro e
      exact hb (e ▸ List.mem_of_mem_drop ha)

/-- A buffer that blocks come into keeps its size and holds no block twice. -/
theorem fillAll_ok (bs : List (BitVec 26)) {l : List (BitVec 26)} (hl : l.length ≤ Config.bufferFields)
    (hn : l.Nodup) : (bs.foldl (fun l b => fillBlock b l) l).length ≤ Config.bufferFields ∧
      (bs.foldl (fun l b => fillBlock b l) l).Nodup := by
  induction bs generalizing l with
  | nil => exact ⟨hl, hn⟩
  | cons b bs ih =>
    obtain ⟨h1, h2, -⟩ := fillBlock_ok (b := b) hl hn
    exact ih h1 h2

theorem fillBlocks_ok {n : Nat} {p : Addr} {l : List (BitVec 26)} (hl : l.length ≤ Config.bufferFields)
    (hn : l.Nodup) : (fillBlocks n p l).length ≤ Config.bufferFields ∧ (fillBlocks n p l).Nodup := by
  induction n generalizing p l with
  | zero => exact ⟨hl, hn⟩
  | succ n ih =>
    obtain ⟨h1, h2, -⟩ := fillBlock_ok (b := blockOf p) hl hn
    exact ih h1 h2

end Sys2Proof.Machine
end

