-- ==== Sys2Proof/Laws/Exec.lean ====
section
/-!
SUPPORT. All that an instruction can do, said once: a next state of `exec` is made by the named updates, and then by at
most one event.
-/

namespace Sys2Proof.Machine

/-- `Works s t`: `t` is made from `s` by the updates that instructions have, none of which is an event. -/
inductive Works (s : State) : State → Prop where
  | start : Works s s
  | setA {t : State} (r : Reg) (x : Addr) : Works s t → Works s (t.setA r x)
  | setS {t : State} (r : Reg) (x : Word) : Works s t → Works s (t.setS r x)
  | setV {t : State} (r : Reg) (n : Nat) (f : Nat → Word) : Works s t → Works s (t.setV r n f)
  | setVL {t : State} (x : BitVec 6) : Works s t → Works s (t.setVL x)
  | setVM {t : State} (x : Word) : Works s t → Works s (t.setVM x)
  | setEnRangeHalt {t : State} (b : Bool) : Works s t → Works s (t.setEnRangeHalt b)
  | setEnFloatHalt {t : State} (b : Bool) : Works s t → Works s (t.setEnFloatHalt b)
  | takeSem {t : State} : Works s t → Works s t.takeSem
  | releaseSem {t : State} : Works s t → Works s t.releaseSem
  | advance {t : State} (n : Nat) : Works s t → Works s (t.advance n)
  | jumpTo {t : State} (x : Addr) : Works s t → Works s (t.jumpTo x)
  | localStore {t : State} (a : Nat) (x : Word) : a < Config.lmWords → Works s t →
      Works s (t.storeLocal a x)
  | commonStore {t : State} (rel : Addr) (x : Word) : t.rangeBad rel = false →
      (t.absolute rel).toNat < Config.cmWords → Works s t →
      Works s (t.storeCommon (t.absolute rel).toNat x)

/-- What a next state of an instruction other than an exit is: the work of the instruction, then perhaps a range error
or a floating-point error of an instruction that changes no status bit itself. -/
inductive Effect (s t : State) : Prop where
  | work : Works s t → Effect s t
  | rangeError {u : State} : Works s u → u.st = s.st → t = u.raise .rangeError → Effect s t
  | floatError {u : State} : Works s u → u.st = s.st → t = u.raise .floatError → Effect s t

theorem Works.branch {s t : State} (b : Bool) (x : Addr) (h : Works s t) : Works s (t.branch b x) := by
  unfold State.branch
  split
  · exact h.jumpTo x
  · exact h.advance 3

theorem Effect.of_signal_range {s u : State} (b : Bool) (h : Works s u) (hst : u.st = s.st) :
    Effect s (u.signal .rangeError b) := by
  cases b
  · exact .work h
  · exact .rangeError h hst rfl

theorem Effect.of_signal_float {s u : State} (b : Bool) (h : Works s u) (hst : u.st = s.st) :
    Effect s (u.signal .floatError b) := by
  cases b
  · exact .work h
  · exact .floatError h hst rfl

theorem Works.of_next {s u t : State} (hw : Works s u) (h : (.next u : Result) = .next t) : Effect s t := by
  cases h
  exact .work hw

theorem Works.of_sequence {s t : State} {f : Nat → State → Except Fault State} {n : Nat}
    (h : sequence f n s = .ok t) (hs : ∀ e u v, Works s u → f e u = .ok v → Works s v) : Works s t :=
  sequence_keeps (P := fun _ u => Works s u) h .start fun e u v _ => hs e u v

theorem Works.commonWrite {s u v : State} {rel : Addr} {x : Word} (hw : Works s u)
    (h : u.commonWrite rel x = .ok v) : Works s v := by
  rcases State.commonWrite_eq_ok h with ⟨-, rfl⟩ | ⟨hb, hc, rfl⟩
  · exact hw
  · exact hw.commonStore rel x hb hc

theorem Works.localWrite {s u v : State} {a : Nat} {x : Word} (hw : Works s u)
    (h : u.localWrite a x = .ok v) : Works s v := by
  obtain ⟨ha, rfl⟩ := State.localWrite_eq_ok h
  exact hw.localStore a x ha

theorem State.commonWrite_st {u v : State} {rel : Addr} {x : Word} (h : u.commonWrite rel x = .ok v) :
    v.st = u.st := by
  rcases State.commonWrite_eq_ok h with ⟨-, rfl⟩ | ⟨-, -, rfl⟩ <;> rfl

/-! ## The shared meanings -/

theorem State.localToA_next {s t : State} {i : Reg} {a n : Nat} (h : s.localToA i a n = .next t) :
    ∃ w, s.localRead a = .ok w ∧ t = (s.setA i (lowHalf w)).advance n := by
  unfold State.localToA at h
  split at h
  · cases h
  · next w hw =>
    cases h
    exact ⟨w, hw, rfl⟩

theorem State.localToS_next {s t : State} {i : Reg} {a n : Nat} (h : s.localToS i a n = .next t) :
    ∃ w, s.localRead a = .ok w ∧ t = (s.setS i w).advance n := by
  unfold State.localToS at h
  split at h
  · cases h
  · next w hw =>
    cases h
    exact ⟨w, hw, rfl⟩

theorem State.toLocal_next {s t : State} {a n : Nat} {w : Word} (h : s.toLocal a w n = .next t) :
    ∃ u, s.localWrite a w = .ok u ∧ t = u.advance n := by
  unfold State.toLocal at h
  split at h
  · cases h
  · next u hu =>
    cases h
    exact ⟨u, hu, rfl⟩

theorem State.loadS_next {s t : State} {i : Reg} {rel : Addr} {n : Nat} (h : s.loadS i rel n = .next t) :
    ∃ w, s.commonRead rel = .ok w ∧ t = ((s.setS i w).advance n).signal .rangeError (s.rangeBad rel) := by
  unfold State.loadS at h
  split at h
  · cases h
  · next w hw =>
    cases h
    exact ⟨w, hw, rfl⟩

theorem State.storeS_next {s t : State} {i : Reg} {rel : Addr} {n : Nat} (h : s.storeS i rel n = .next t) :
    ∃ u, s.commonWrite rel (s.getS i) = .ok u ∧ t = (u.advance n).signal .rangeError (s.rangeBad rel) := by
  unfold State.storeS at h
  split at h
  · cases h
  · next u hu =>
    cases h
    exact ⟨u, hu, rfl⟩

theorem State.loadV_next {s t : State} {i : Reg} {rel : Nat → Addr} (h : s.loadV i rel = .next t) :
    ∃ l : List Word, (∀ e, e < s.vlen → s.commonRead (rel e) = .ok (l.getD e 0)) ∧
      t = ((s.setV i s.vlen fun e => l.getD e 0).advance 1).signal .rangeError
        (anyBelow (fun e => s.rangeBad (rel e)) s.vlen) := by
  unfold State.loadV at h
  split at h
  · cases h
  · next l hl =>
    cases h
    exact ⟨l, (collect_eq_ok hl).2, rfl⟩

theorem State.storeV_next {s t : State} {i : Reg} {rel : Nat → Addr} (h : s.storeV i rel = .next t) :
    ∃ u, sequence (fun e v => v.commonWrite (rel e) (s.elem i e)) s.vlen s = .ok u ∧
      t = (u.advance 1).signal .rangeError (anyBelow (fun e => s.rangeBad (rel e)) s.vlen) := by
  unfold State.storeV at h
  split at h
  · cases h
  · next u hu =>
    cases h
    exact ⟨u, hu, rfl⟩

/-! ## The effect of each shared meaning -/

theorem Effect.localToA {s t : State} {i : Reg} {a n : Nat} (h : s.localToA i a n = .next t) : Effect s t := by
  obtain ⟨w, -, rfl⟩ := State.localToA_next h
  exact .work ((Works.start.setA _ _).advance _)

theorem Effect.localToS {s t : State} {i : Reg} {a n : Nat} (h : s.localToS i a n = .next t) : Effect s t := by
  obtain ⟨w, -, rfl⟩ := State.localToS_next h
  exact .work ((Works.start.setS _ _).advance _)

theorem Effect.toLocal {s t : State} {a n : Nat} {w : Word} (h : s.toLocal a w n = .next t) : Effect s t := by
  obtain ⟨u, hu, rfl⟩ := State.toLocal_next h
  exact .work ((Works.start.localWrite hu).advance _)

theorem Effect.loadS {s t : State} {i : Reg} {rel : Addr} {n : Nat} (h : s.loadS i rel n = .next t) : Effect s t := by
  obtain ⟨w, -, rfl⟩ := State.loadS_next h
  exact .of_signal_range _ ((Works.start.setS _ _).advance _) rfl

theorem Effect.storeS {s t : State} {i : Reg} {rel : Addr} {n : Nat} (h : s.storeS i rel n = .next t) :
    Effect s t := by
  obtain ⟨u, hu, rfl⟩ := State.storeS_next h
  exact .of_signal_range _ ((Works.start.commonWrite hu).advance _)
    ((State.advance_st u n).trans (State.commonWrite_st hu))

theorem Effect.loadV {s t : State} {i : Reg} {rel : Nat → Addr} (h : s.loadV i rel = .next t) : Effect s t := by
  obtain ⟨l, -, rfl⟩ := State.loadV_next h
  exact .of_signal_range _ ((Works.start.setV _ _ _).advance _) rfl

theorem Effect.storeV {s t : State} {i : Reg} {rel : Nat → Addr} (h : s.storeV i rel = .next t) : Effect s t := by
  obtain ⟨u, hu, rfl⟩ := State.storeV_next h
  refine .of_signal_range _ ((Works.of_sequence hu fun _ _ _ hw he => hw.commonWrite he).advance _) ?_
  rw [State.advance_st]
  exact sequence_keeps (P := fun _ v => v.st = s.st) hu rfl fun e v w _ hv hw => (State.commonWrite_st hw).trans hv

theorem Effect.loadVLocal {s t : State} {i k : Reg} (h : execLoadVLocal i k s = .next t) : Effect s t := by
  unfold execLoadVLocal at h
  split at h
  · cases h
  · cases h
    exact .work ((Works.start.setV _ _ _).advance _)

theorem Effect.storeVLocal {s t : State} {i k : Reg} (h : execStoreVLocal i k s = .next t) : Effect s t := by
  unfold execStoreVLocal at h
  split at h
  · cases h
  · next u hu =>
    cases h
    exact .work ((Works.of_sequence hu fun _ _ _ hw he => hw.localWrite he).advance _)

theorem Effect.floatS {s t : State} {i : Reg} {x : Word × Bool} (h : s.floatS i x = .next t) : Effect s t := by
  cases h
  exact .of_signal_float _ ((Works.start.setS _ _).advance _) rfl

theorem Effect.floatV {s t : State} {i : Reg} {f : Nat → Word × Bool} (h : s.floatV i f = .next t) : Effect s t := by
  cases h
  exact .of_signal_float _ ((Works.start.setV _ _ _).advance _) rfl

/-! ## All instructions -/

/-- All that an instruction other than an exit can do when it answers a next state. -/
theorem exec_effect_of_not_exit {x : Instr} {s t : State} (h : exec x s = .next t)
    (hx : ∀ jk, x ≠ .exit jk ∧ x ≠ .exitAlt jk) : Effect s t := by
  cases x with
  | exit jk => exact absurd rfl (hx _).1
  | exitAlt jk => exact absurd rfl (hx _).2
  | jumpReg ri rk => exact Works.of_next ((Works.start.setA _ _).jumpTo _) h
  | jump c => exact Works.of_next (Works.start.jumpTo _) h
  | jumpSemClear c => exact Works.of_next (Works.start.takeSem.branch _ _) h
  | jumpSemSet c => exact Works.of_next (Works.start.takeSem.branch _ _) h
  | setSem => exact Works.of_next (Works.start.takeSem.advance _) h
  | clearSem => exact Works.of_next (Works.start.releaseSem.advance _) h
  | jumpAZero rk c => exact Works.of_next (Works.start.branch _ _) h
  | jumpANonzero rk c => exact Works.of_next (Works.start.branch _ _) h
  | jumpAPositive rk c => exact Works.of_next (Works.start.branch _ _) h
  | jumpANegative rk c => exact Works.of_next (Works.start.branch _ _) h
  | jumpSZero rj c => exact Works.of_next (Works.start.branch _ _) h
  | jumpSNonzero rj c => exact Works.of_next (Works.start.branch _ _) h
  | jumpSPositive rj c => exact Works.of_next (Works.start.branch _ _) h
  | jumpSNegative rj c => exact Works.of_next (Works.start.branch _ _) h
  | addA ri rj rk => exact Works.of_next ((Works.start.setA _ _).advance _) h
  | subA ri rj rk => exact Works.of_next ((Works.start.setA _ _).advance _) h
  | mulA ri rj rk => exact Works.of_next ((Works.start.setA _ _).advance _) h
  | mulAAlt ri rj rk => exact Works.of_next ((Works.start.setA _ _).advance _) h
  | moveSToA ri rj => exact Works.of_next ((Works.start.setA _ _).advance _) h
  | readVL ri => exact Works.of_next ((Works.start.setA _ _).advance _) h
  | shortPosA ri jk => exact Works.of_next ((Works.start.setA _ _).advance _) h
  | shortNegA ri jk => exact Works.of_next ((Works.start.setA _ _).advance _) h
  | maskZero rk => exact Works.of_next ((Works.start.setVM _).advance _) h
  | maskNonzero rk => exact Works.of_next ((Works.start.setVM _).advance _) h
  | maskPositive rk => exact Works.of_next ((Works.start.setVM _).advance _) h
  | maskNegative rk => exact Works.of_next ((Works.start.setVM _).advance _) h
  | writeVM rj => exact Works.of_next ((Works.start.setVM _).advance _) h
  | disableRangeHalt => exact Works.of_next ((Works.start.setEnRangeHalt _).advance _) h
  | enableRangeHalt => exact Works.of_next ((Works.start.setEnRangeHalt _).advance _) h
  | disableFloatHalt => exact Works.of_next ((Works.start.setEnFloatHalt _).advance _) h
  | enableFloatHalt => exact Works.of_next ((Works.start.setEnFloatHalt _).advance _) h
  | unspecified035 rk => cases h
  | writeVL rk => exact Works.of_next ((Works.start.setVL _).advance _) h
  | writeVLAlt rk => exact Works.of_next ((Works.start.setVL _).advance _) h
  | parcelPosA ri c => exact Works.of_next ((Works.start.setA _ _).advance _) h
  | parcelNegA ri c => exact Works.of_next ((Works.start.setA _ _).advance _) h
  | halfA ri c => exact Works.of_next ((Works.start.setA _ _).advance _) h
  | halfAAlt ri c => exact Works.of_next ((Works.start.setA _ _).advance _) h
  | loadALocal ri c => exact Effect.localToA h
  | storeALocal rk c => exact Effect.toLocal h
  | loadALocalReg ri rk => exact Effect.localToA h
  | storeALocalReg rj rk => exact Effect.toLocal h
  | halfPosS ri c => exact Works.of_next ((Works.start.setS _ _).advance _) h
  | halfNegS ri c => exact Works.of_next ((Works.start.setS _ _).advance _) h
  | leftS ri c => exact Works.of_next ((Works.start.setS _ _).advance _) h
  | fullS ri c => exact Works.of_next ((Works.start.setS _ _).advance _) h
  | loadSLocal ri c => exact Effect.localToS h
  | storeSLocal rj c => exact Effect.toLocal h
  | loadSLocalReg ri rk => exact Effect.localToS h
  | storeSLocalReg ri rk => exact Effect.toLocal h
  | loadSIndexed ri rj rk => exact Effect.loadS h
  | storeSIndexed ri rj rk => exact Effect.storeS h
  | loadSReg ri rk => exact Effect.loadS h
  | storeSReg ri rk => exact Effect.storeS h
  | loadSDisp ri rk c => exact Effect.loadS h
  | storeSDisp ri rk c => exact Effect.storeS h
  | loadSDirect ri c => exact Effect.loadS h
  | storeSDirect ri c => exact Effect.storeS h
  | loadVStride ri rj rk => exact Effect.loadV h
  | storeVStride ri rj rk => exact Effect.storeV h
  | gatherV ri rj rk => exact Effect.loadV h
  | scatterV ri rj rk => exact Effect.storeV h
  | loadVLocal ri rk => exact Effect.loadVLocal h
  | storeVLocal ri rk => exact Effect.storeVLocal h
  | pass => exact Works.of_next (Works.start.advance _) h
  | passAlt => exact Works.of_next (Works.start.advance _) h
  | andS ri rj rk => exact Works.of_next ((Works.start.setS _ _).advance _) h
  | andNotS ri rj rk => exact Works.of_next ((Works.start.setS _ _).advance _) h
  | xorS ri rj rk => exact Works.of_next ((Works.start.setS _ _).advance _) h
  | orS ri rj rk => exact Works.of_next ((Works.start.setS _ _).advance _) h
  | addS ri rj rk => exact Works.of_next ((Works.start.setS _ _).advance _) h
  | subS ri rj rk => exact Works.of_next ((Works.start.setS _ _).advance _) h
  | popcountS ri rj => exact Works.of_next ((Works.start.setS _ _).advance _) h
  | parityS ri rj => exact Works.of_next ((Works.start.setS _ _).advance _) h
  | unspecified106Low ri rj rk => cases h
  | unspecified106High ri rj rk => cases h
  | leadingZerosS ri rj => exact Works.of_next ((Works.start.setS _ _).advance _) h
  | shiftLeftS ri jk => exact Works.of_next ((Works.start.setS _ _).advance _) h
  | shiftRightS ri jk => exact Works.of_next ((Works.start.setS _ _).advance _) h
  | doubleShiftLeftS ri rj rk => exact Works.of_next ((Works.start.setS _ _).advance _) h
  | doubleShiftRightS ri rj rk => exact Works.of_next ((Works.start.setS _ _).advance _) h
  | readVM ri => exact Works.of_next ((Works.start.setS _ _).advance _) h
  | readRT ri => exact Works.of_next ((Works.start.setS _ _).advance _) h
  | shortPosS ri jk => exact Works.of_next ((Works.start.setS _ _).advance _) h
  | shortNegS ri jk => exact Works.of_next ((Works.start.setS _ _).advance _) h
  | faddS ri rj rk => exact Effect.floatS h
  | fsubS ri rj rk => exact Effect.floatS h
  | fixS ri rk => exact Effect.floatS h
  | floatS ri rk => exact Works.of_next ((Works.start.setS _ _).advance _) h
  | fmulS ri rj rk => exact Effect.floatS h
  | fmulSAlt ri rj rk => exact Effect.floatS h
  | recipIterS ri rj rk => exact Effect.floatS h
  | sqrtIterS ri rj rk => exact Effect.floatS h
  | moveAToS ri rk => exact Works.of_next ((Works.start.setS _ _).advance _) h
  | moveAToSSigned ri rk => exact Works.of_next ((Works.start.setS _ _).advance _) h
  | recipS ri rj => exact Effect.floatS h
  | rsqrtS ri rj => exact Effect.floatS h
  | pass134 => exact Works.of_next (Works.start.advance _) h
  | pass135 => exact Works.of_next (Works.start.advance _) h
  | pass136 => exact Works.of_next (Works.start.advance _) h
  | pass137 => exact Works.of_next (Works.start.advance _) h
  | andSV ri rj rk => exact Works.of_next ((Works.start.setV _ _ _).advance _) h
  | andVV ri rj rk => exact Works.of_next ((Works.start.setV _ _ _).advance _) h
  | xorSV ri rj rk => exact Works.of_next ((Works.start.setV _ _ _).advance _) h
  | xorVV ri rj rk => exact Works.of_next ((Works.start.setV _ _ _).advance _) h
  | orSV ri rj rk => exact Works.of_next ((Works.start.setV _ _ _).advance _) h
  | orVV ri rj rk => exact Works.of_next ((Works.start.setV _ _ _).advance _) h
  | mergeSV ri rj rk => exact Works.of_next ((Works.start.setV _ _ _).advance _) h
  | mergeVV ri rj rk => exact Works.of_next ((Works.start.setV _ _ _).advance _) h
  | shiftLeftV ri rj rk => exact Works.of_next ((Works.start.setV _ _ _).advance _) h
  | shiftRightV ri rj rk => exact Works.of_next ((Works.start.setV _ _ _).advance _) h
  | doubleShiftLeftV ri rj rk => exact Works.of_next ((Works.start.setV _ _ _).advance _) h
  | doubleShiftRightV ri rj rk => exact Works.of_next ((Works.start.setV _ _ _).advance _) h
  | fmulSV ri rj rk => exact Effect.floatV h
  | fmulVV ri rj rk => exact Effect.floatV h
  | recipIterVV ri rj rk => exact Effect.floatV h
  | sqrtIterVV ri rj rk => exact Effect.floatV h
  | addSV ri rj rk => exact Works.of_next ((Works.start.setV _ _ _).advance _) h
  | addVV ri rj rk => exact Works.of_next ((Works.start.setV _ _ _).advance _) h
  | subSV ri rj rk => exact Works.of_next ((Works.start.setV _ _ _).advance _) h
  | subVV ri rj rk => exact Works.of_next ((Works.start.setV _ _ _).advance _) h
  | popcountV ri rj => exact Works.of_next ((Works.start.setV _ _ _).advance _) h
  | parityV ri rj => exact Works.of_next ((Works.start.setV _ _ _).advance _) h
  | unspecified164Low ri rj rk => cases h
  | unspecified164High ri rj rk => cases h
  | leadingZerosV ri rj => exact Works.of_next ((Works.start.setV _ _ _).advance _) h
  | recipV ri rk => exact Effect.floatV h
  | rsqrtV ri rk => exact Effect.floatV h
  | faddSV ri rj rk => exact Effect.floatV h
  | faddVV ri rj rk => exact Effect.floatV h
  | fsubSV ri rj rk => exact Effect.floatV h
  | fsubVV ri rj rk => exact Effect.floatV h
  | fixV ri rk => exact Effect.floatV h
  | floatV ri rk => exact Works.of_next ((Works.start.setV _ _ _).advance _) h
  | iota ri rj rk => exact Works.of_next ((Works.start.setV _ _ _).advance _) h
  | iotaAlt ri rj rk => exact Works.of_next ((Works.start.setV _ _ _).advance _) h

/-- All that an instruction can do when it answers a next state. -/
theorem exec_effect {x : Instr} {s t : State} (h : exec x s = .next t) :
    Effect s t ∨ ∃ jk, (x = .exit jk ∨ x = .exitAlt jk) ∧ t = s.raise (.exit jk) := by
  by_cases hx : ∀ jk, x ≠ .exit jk ∧ x ≠ .exitAlt jk
  · exact .inl (exec_effect_of_not_exit h hx)
  · simp only [ne_eq, not_forall, not_and_or, not_not] at hx
    obtain ⟨jk, hx⟩ := hx
    refine .inr ⟨jk, hx, ?_⟩
    rcases hx with rfl | rfl <;> (cases h; rfl)

/-! ## What the work of an instruction leaves alone -/

/-- The work of an instruction leaves the field, the run state, the clock, the buffer, the Semaphore pointer and the
exit, idle and error fields alone. -/
theorem Works.keeps {s t : State} (h : Works s t) :
    t.ba = s.ba ∧ t.la = s.la ∧ t.run = s.run ∧ t.rtc = s.rtc ∧ t.ibuf = s.ibuf ∧ t.freeIndex = s.freeIndex ∧
      t.st.semPtr = s.st.semPtr ∧ t.st.idleMode = s.st.idleMode ∧ t.st.exitMode = s.st.exitMode ∧
      t.st.exitCode = s.st.exitCode ∧ t.st.rangeErr = s.st.rangeErr ∧ t.st.floatErr = s.st.floatErr := by
  induction h <;> simp_all

/-! ## A step -/

/-- All that a step can do when it answers a next state. -/
theorem step_next {s t : State} (h : step s = .next t) :
    (s.run = .idle ∧ t = s.tick) ∨
    (s.run = .running ∧ s.fieldOk = true ∧ ∃ l i rest, s.fetch = .ok l ∧ decode l = .ok (i, rest) ∧
      exec i (s.tick.fill l.length) = .next t) := by
  unfold step at h
  split at h
  · next hr =>
    cases h
    exact .inl ⟨hr, rfl⟩
  · next hr =>
    split at h
    · next hf =>
      split at h
      · cases h
      · next l hl =>
        split at h
        · cases h
        · next i rest hd => exact .inr ⟨hr, hf, l, i, rest, hl, hd, h⟩
    · cases h

end Sys2Proof.Machine
end

