-- ==== Sys2Proof/Laws/Events.lean ====
section
/-!
SUPPORT. What exits, error signals and halts do and what they leave alone (60_exceptions.md R421 to R427).
-/

namespace Sys2Proof.Machine

/-! ## Exit -/

@[simp] theorem State.raise_exit (s : State) (jk : Short) :
    s.raise (.exit jk) =
      { s with
        st := { s.st with exitCode := jk, exitMode := true, idleMode := true }
        run := .idle
        p := Config.stoppedP s.freeIndex } := rfl

/-! ## Halt -/

/-- What holds of a memory and is kept by each of a list of stores holds after them. -/
theorem foldl_keeps {α β : Type} {P : β → Prop} (f : β → α → β) (l : List α) {m : β} (h : P m)
    (hs : ∀ m x, P m → P (f m x)) : P (l.foldl f m) := by
  induction l generalizing m with
  | nil => exact h
  | cons x l ih => exact ih (hs m x h)

/-- A halt leaves the processor idle, keeps the exit fields and the Semaphore pointer, and clears no error bit. -/
theorem State.halt_status (s : State) :
    s.halt.run = .idle ∧ s.halt.st.idleMode = true ∧ s.halt.st.exitMode = s.st.exitMode ∧
      s.halt.st.exitCode = s.st.exitCode ∧ s.halt.st.semPtr = s.st.semPtr ∧
      (s.st.rangeErr = true → s.halt.st.rangeErr = true) ∧ (s.st.floatErr = true → s.halt.st.floatErr = true) := by
  simp +contextual [State.halt, State.lateRegisters]

@[simp] theorem State.halt_freeIndex (s : State) : s.halt.freeIndex = s.freeIndex := rfl

/-- The clock is not set back by a halt. -/
theorem State.halt_rtc_le (s : State) : s.rtc.toNat ≤ s.halt.rtc.toNat := by
  have hr := s.rtc.isLt
  have hm := Nat.mod_lt (Config.lateClocks s.freeIndex) (y := 2 ^ 64 - s.rtc.toNat) (by omega)
  have he : s.halt.rtc = s.rtc + BitVec.ofNat 64 (Config.lateClocks s.freeIndex % (2 ^ 64 - s.rtc.toNat)) := rfl
  rw [he, BitVec.toNat_add, BitVec.toNat_ofNat]
  generalize Config.lateClocks s.freeIndex % (2 ^ 64 - s.rtc.toNat) = m at hm ⊢
  omega

/-- After a halt the instruction buffer still holds at most eight blocks, none twice. -/
theorem State.halt_bufferOk {s : State} (h : s.BufferOk) : s.halt.BufferOk :=
  fillAll_ok (Config.lateBlocks s.freeIndex) h.1 h.2

/-- What holds of Local Memory and is kept by stores to its words holds after a halt. -/
theorem State.halt_keeps_local {P : Memory → Prop} {s : State} (h : P s.lm)
    (hs : ∀ m a v, a < Config.lmWords → P m → P (Memory.writeWord m a v)) : P s.halt.lm := by
  change P s.lateMemory.lm
  unfold State.lateMemory
  refine foldl_keeps (P := fun u : State => P u.lm) _ _ ?_ fun u x hu => hu
  exact foldl_keeps (P := fun u : State => P u.lm) _ _ h fun u x hu => hs _ _ _ x.1.isLt hu

/-- What holds of Common Memory and the written words and is kept by stores to its words holds after a halt. -/
theorem State.halt_keeps_common {P : Memory → List Nat → Prop} {s : State} (h : P s.cm s.written)
    (hs : ∀ m w a v, a < Config.cmWords → P m w → P (Memory.writeWord m a v) (insertAddress a w)) :
    P s.halt.cm s.halt.written := by
  change P s.lateMemory.cm s.lateMemory.written
  unfold State.lateMemory
  refine foldl_keeps (P := fun u : State => P u.cm u.written) _ _ ?_ fun u x hu => hs _ _ _ _ x.1.isLt hu
  exact foldl_keeps (P := fun u : State => P u.cm u.written) _ _ h fun u x hu => hu

end Sys2Proof.Machine
end

