-- ==== Sys2Proof/Laws/Float.lean ====
section
/-!
SUPPORT. The fields of a packed floating-point word (40_numerics.md R136).
-/

namespace Sys2Proof.Machine

/-- Any bit of a packed word. -/
theorem getLsbD_packFloat (s : Bool) (e c i : Nat) : (packFloat s e c).getLsbD i =
    if i < 48 then (BitVec.ofNat 48 c).getLsbD i
    else if i - 48 < 15 then (BitVec.ofNat 15 e).getLsbD (i - 48) else (BitVec.ofBool s).getLsbD (i - 48 - 15) := by
  unfold packFloat
  rw [BitVec.getLsbD_append (x := BitVec.ofBool s ++ BitVec.ofNat 15 e), BitVec.getLsbD_append]

@[simp] theorem floatSign_packFloat (s : Bool) (e c : Nat) : floatSign (packFloat s e c) = s := by
  rw [floatSign, getLsbD_packFloat, if_neg (by omega), if_neg (by omega)]
  cases s <;> rfl

@[simp] theorem floatExp_packFloat (s : Bool) (e c : Nat) : floatExp (packFloat s e c) = e % 2 ^ 15 := by
  have h : (packFloat s e c).extractLsb' 48 15 = BitVec.ofNat 15 e := by
    apply BitVec.eq_of_getLsbD_eq
    intro i hi
    simp only [BitVec.getLsbD_extractLsb', hi, decide_true, Bool.true_and, getLsbD_packFloat]
    rw [if_neg (by omega), if_pos (by omega), Nat.add_sub_cancel_left]
  rw [floatExp, h, BitVec.toNat_ofNat]

@[simp] theorem floatCoef_packFloat (s : Bool) (e c : Nat) : floatCoef (packFloat s e c) = c % 2 ^ 48 := by
  have h : (packFloat s e c).extractLsb' 0 48 = BitVec.ofNat 48 c := by
    apply BitVec.eq_of_getLsbD_eq
    intro i hi
    simp only [BitVec.getLsbD_extractLsb', hi, decide_true, Bool.true_and, getLsbD_packFloat]
    rw [if_pos (by omega), Nat.zero_add]
  rw [floatCoef, h, BitVec.toNat_ofNat]

/-- A forced exponent is the word's exponent (R141). -/
@[simp] theorem floatExp_forceExp (e : Nat) (r : Word) : floatExp (forceExp e r) = e % 2 ^ 15 := by
  simp [forceExp]

/-! ## The operands of the square root iteration -/

/-- The search finds a word in its range exactly where one satisfies the test. -/
theorem someWord_eq_true {p : Word → Bool} {n w : Nat} : someWord p n w = true ↔
    ∃ x, w * 2 ^ n ≤ x ∧ x < (w + 1) * 2 ^ n ∧ p (BitVec.ofNat 64 x) = true := by
  induction n generalizing w with
  | zero =>
    simp only [someWord, Nat.pow_zero, Nat.mul_one]
    exact ⟨fun h => ⟨w, Nat.le_refl _, Nat.lt_succ_self _, h⟩, fun ⟨x, h1, h2, h⟩ => by
      rwa [Nat.le_antisymm (Nat.le_of_lt_succ h2) h1] at h⟩
  | succ n ih =>
    rw [someWord, Bool.or_eq_true, ih, ih]
    have e0 : w * 2 ^ (n + 1) = 2 * w * 2 ^ n := by ring
    have e1 : (2 * w + 1) * 2 ^ n = 2 * w * 2 ^ n + 2 ^ n := by ring
    have e2 : (w + 1) * 2 ^ (n + 1) = 2 * w * 2 ^ n + 2 ^ n + 2 ^ n := by ring
    have e3 : (2 * w + 1 + 1) * 2 ^ n = 2 * w * 2 ^ n + 2 ^ n + 2 ^ n := by ring
    rw [e0, e1, e2, e3]
    constructor
    · rintro (⟨x, h1, h2, h⟩ | ⟨x, h1, h2, h⟩) <;> exact ⟨x, by omega, by omega, h⟩
    · rintro ⟨x, h1, h2, h⟩
      by_cases hx : x < 2 * w * 2 ^ n + 2 ^ n
      · exact .inl ⟨x, h1, hx, h⟩
      · exact .inr ⟨x, by omega, h2, h⟩

/-- What it is that the operands come from the algorithm of R152. -/
theorem fromRsqrt_eq_true {a b : Word} : fromRsqrt a b = true ↔ ∃ x, (fRsqrt x).1 = a ∧ (fMul x a).1 = b := by
  rw [fromRsqrt, someWord_eq_true]
  simp only [Bool.and_eq_true, decide_eq_true_eq]
  constructor
  · rintro ⟨x, -, -, h⟩
    exact ⟨_, h⟩
  · rintro ⟨x, h⟩
    exact ⟨x.toNat, by omega, by simpa using x.isLt, by simpa using h⟩

/-- An iteration as prescribed that errs delivers the forced exponent. -/
theorem iterationWord_err {r a b : Word} (h : iterationErr a b = true) :
    floatExp (iterationWord r a b) = 0o60001 := by
  rw [iterationWord, if_pos h, floatExp_forceExp]
  rfl

/-- For the operands of R152 the word is that of an iteration as prescribed. -/
theorem fRsqrtIter_of_from {x a b : Word} (ha : (fRsqrt x).1 = a) (hb : (fMul x a).1 = b) :
    fRsqrtIter a b = (iterationWord (Config.sqrtIterWord a b) a b, iterationErr a b) := by
  have h : fromRsqrt a b = true := fromRsqrt_eq_true.2 ⟨x, ha, hb⟩
  unfold fRsqrtIter
  rw [h, Bool.and_true]
  split
  · rfl
  · next hf =>
    have hf : iterationErr a b = false ∧ ¬ floatExp a + floatExp b < 0o20000 + 0o40000 := by
      simpa [iterationForced] using hf
    simp only [iterationWord, hf.1, if_neg hf.2]
    rfl

end Sys2Proof.Machine
end

