-- ==== Sys2Proof/Laws/Foreground.lean ====
section
/-!
SUPPORT. All that the host's actions can do (60_exceptions.md R440, 70_reset_and_hazards.md R461), and how a run unfolds
(R432).
-/

namespace Sys2Proof.Machine

/-- The premises of a launch as numbers (R462). -/
theorem Launch.ok_iff {l : Launch} : l.ok = true ↔
    l.ba0.toNat ≤ l.la0.toNat ∧ l.la0.toNat ≤ Config.cmWords ∧ l.ba0.toNat + l.p0.toNat / 4 < l.la0.toNat := by
  simp [Launch.ok, BitVec.le_def, and_assoc]

/-- All that a launch that answers a next state has done. -/
theorem State.launch_eq_next {s t : State} {l : Launch} (h : s.launch l = .next t) :
    s.run = .idle ∧ l.ok = true ∧
      t = { s with
        p := l.p0
        ba := l.ba0
        la := l.la0
        st := { s.st with
          exitMode := false
          idleMode := false
          exitCode := 0
          semPtr := l.semPtr
          semBit := l.semBit
          rangeErr := false
          floatErr := false }
        run := .running
        written := []
        ibuf := [] } := by
  unfold State.launch at h
  split at h
  · cases h
  · next hr =>
    split at h
    · next hl =>
      cases h
      exact ⟨by cases hs : s.run <;> simp_all, hl, rfl⟩
    · cases h

theorem State.hostWrite_idle {s : State} (buffer : List Nat) (w : HostWrite) (h : s.run = .idle) :
    s.hostWrite buffer w = .next (s.hostApply w) := by
  simp only [State.hostWrite, h]

/-- All that a write of the host that answers a next state can have done. -/
theorem State.hostWrite_eq_next {s t : State} {buffer : List Nat} {w : HostWrite} (h : s.hostWrite buffer w = .next t) :
    (s.run = .idle ∧ t = s.hostApply w) ∨
    (s.run = .running ∧ ∃ a x, w = .commonWord a x ∧ t = s.storeCommon a.toNat x ∧
      (s.inField (BitVec.ofNat 32 a.toNat) = false ∨ a.toNat ∈ buffer)) := by
  cases hr : s.run with
  | idle =>
    rw [State.hostWrite_idle buffer w hr] at h
    cases h
    exact .inl ⟨rfl, rfl⟩
  | running =>
    simp only [State.hostWrite, hr] at h
    split at h
    · next a x =>
      unfold State.hostStore at h
      split at h
      · cases h
      · next hb =>
        cases h
        refine .inr ⟨rfl, a, x, rfl, rfl, ?_⟩
        cases hf : s.inField (BitVec.ofNat 32 a.toNat) <;> simp_all
    · cases h

/-- A write of the host does not change whether the processor runs. -/
theorem State.hostApply_run (s : State) (w : HostWrite) : (s.hostApply w).run = s.run := by
  cases w <;> rfl

/-! ## Runs -/

theorem runFor_idle {s : State} (n : Nat) (h : s.run = .idle) : runFor n s = s.idleEnd := by
  cases n <;> simp only [runFor, h]

theorem runFor_zero {s : State} (h : s.run = .running) : runFor 0 s = .unfinished s := by
  simp only [runFor, h]

theorem runFor_next {s t : State} (n : Nat) (h : s.run = .running) (ht : step s = .next t) :
    runFor (n + 1) s = runFor n t := by
  simp only [runFor, h, ht]

theorem State.idleEnd_ended (s : State) : s.idleEnd.Ended := by
  unfold State.idleEnd
  split <;> trivial

end Sys2Proof.Machine
end

