-- ==== Sys2Proof/Laws/PerInstr.lean ====
section
/-!
SUPPORT. For every instruction: its encoding has as many parcels as its form (30_encoding.md R103).
-/

namespace Sys2Proof.Laws.EncodedLength

/-- The encoding has the number of parcels the instruction's form has. -/
def Statement (i : Instr) : Prop := (encode i).length = i.parcels

theorem exit (jk : Short) : Statement (.exit jk) := rfl
theorem exitAlt (jk : Short) : Statement (.exitAlt jk) := rfl
theorem jumpReg (ri : Reg) (rk : Reg) : Statement (.jumpReg ri rk) := rfl
theorem jump (c : Addr) : Statement (.jump c) := rfl
theorem jumpSemClear (c : Addr) : Statement (.jumpSemClear c) := rfl
theorem jumpSemSet (c : Addr) : Statement (.jumpSemSet c) := rfl
theorem setSem : Statement .setSem := rfl
theorem clearSem : Statement .clearSem := rfl
theorem jumpAZero (rk : Reg) (c : Addr) : Statement (.jumpAZero rk c) := rfl
theorem jumpANonzero (rk : Reg) (c : Addr) : Statement (.jumpANonzero rk c) := rfl
theorem jumpAPositive (rk : Reg) (c : Addr) : Statement (.jumpAPositive rk c) := rfl
theorem jumpANegative (rk : Reg) (c : Addr) : Statement (.jumpANegative rk c) := rfl
theorem jumpSZero (rj : Reg) (c : Addr) : Statement (.jumpSZero rj c) := rfl
theorem jumpSNonzero (rj : Reg) (c : Addr) : Statement (.jumpSNonzero rj c) := rfl
theorem jumpSPositive (rj : Reg) (c : Addr) : Statement (.jumpSPositive rj c) := rfl
theorem jumpSNegative (rj : Reg) (c : Addr) : Statement (.jumpSNegative rj c) := rfl
theorem addA (ri : Reg) (rj : Reg) (rk : Reg) : Statement (.addA ri rj rk) := rfl
theorem subA (ri : Reg) (rj : Reg) (rk : Reg) : Statement (.subA ri rj rk) := rfl
theorem mulA (ri : Reg) (rj : Reg) (rk : Reg) : Statement (.mulA ri rj rk) := rfl
theorem mulAAlt (ri : Reg) (rj : Reg) (rk : Reg) : Statement (.mulAAlt ri rj rk) := rfl
theorem moveSToA (ri : Reg) (rj : Reg) : Statement (.moveSToA ri rj) := rfl
theorem readVL (ri : Reg) : Statement (.readVL ri) := rfl
theorem shortPosA (ri : Reg) (jk : Short) : Statement (.shortPosA ri jk) := rfl
theorem shortNegA (ri : Reg) (jk : Short) : Statement (.shortNegA ri jk) := rfl
theorem maskZero (rk : Reg) : Statement (.maskZero rk) := rfl
theorem maskNonzero (rk : Reg) : Statement (.maskNonzero rk) := rfl
theorem maskPositive (rk : Reg) : Statement (.maskPositive rk) := rfl
theorem maskNegative (rk : Reg) : Statement (.maskNegative rk) := rfl
theorem writeVM (rj : Reg) : Statement (.writeVM rj) := rfl
theorem disableRangeHalt : Statement .disableRangeHalt := rfl
theorem enableRangeHalt : Statement .enableRangeHalt := rfl
theorem disableFloatHalt : Statement .disableFloatHalt := rfl
theorem enableFloatHalt : Statement .enableFloatHalt := rfl
theorem unspecified035 (rk : Reg) : Statement (.unspecified035 rk) := rfl
theorem writeVL (rk : Reg) : Statement (.writeVL rk) := rfl
theorem writeVLAlt (rk : Reg) : Statement (.writeVLAlt rk) := rfl
theorem parcelPosA (ri : Reg) (c : Parcel) : Statement (.parcelPosA ri c) := rfl
theorem parcelNegA (ri : Reg) (c : Parcel) : Statement (.parcelNegA ri c) := rfl
theorem halfA (ri : Reg) (c : Addr) : Statement (.halfA ri c) := rfl
theorem halfAAlt (ri : Reg) (c : Addr) : Statement (.halfAAlt ri c) := rfl
theorem loadALocal (ri : Reg) (c : Parcel) : Statement (.loadALocal ri c) := rfl
theorem storeALocal (rk : Reg) (c : Parcel) : Statement (.storeALocal rk c) := rfl
theorem loadALocalReg (ri : Reg) (rk : Reg) : Statement (.loadALocalReg ri rk) := rfl
theorem storeALocalReg (rj : Reg) (rk : Reg) : Statement (.storeALocalReg rj rk) := rfl
theorem halfPosS (ri : Reg) (c : Addr) : Statement (.halfPosS ri c) := rfl
theorem halfNegS (ri : Reg) (c : Addr) : Statement (.halfNegS ri c) := rfl
theorem leftS (ri : Reg) (c : Addr) : Statement (.leftS ri c) := rfl
theorem fullS (ri : Reg) (c : Word) : Statement (.fullS ri c) := rfl
theorem loadSLocal (ri : Reg) (c : Parcel) : Statement (.loadSLocal ri c) := rfl
theorem storeSLocal (rj : Reg) (c : Parcel) : Statement (.storeSLocal rj c) := rfl
theorem loadSLocalReg (ri : Reg) (rk : Reg) : Statement (.loadSLocalReg ri rk) := rfl
theorem storeSLocalReg (ri : Reg) (rk : Reg) : Statement (.storeSLocalReg ri rk) := rfl
theorem loadSIndexed (ri : Reg) (rj : Reg) (rk : Reg) : Statement (.loadSIndexed ri rj rk) := rfl
theorem storeSIndexed (ri : Reg) (rj : Reg) (rk : Reg) : Statement (.storeSIndexed ri rj rk) := rfl
theorem loadSReg (ri : Reg) (rk : Reg) : Statement (.loadSReg ri rk) := rfl
theorem storeSReg (ri : Reg) (rk : Reg) : Statement (.storeSReg ri rk) := rfl
theorem loadSDisp (ri : Reg) (rk : Reg) (c : Addr) : Statement (.loadSDisp ri rk c) := rfl
theorem storeSDisp (ri : Reg) (rk : Reg) (c : Addr) : Statement (.storeSDisp ri rk c) := rfl
theorem loadSDirect (ri : Reg) (c : Addr) : Statement (.loadSDirect ri c) := rfl
theorem storeSDirect (ri : Reg) (c : Addr) : Statement (.storeSDirect ri c) := rfl
theorem loadVStride (ri : Reg) (rj : Reg) (rk : Reg) : Statement (.loadVStride ri rj rk) := rfl
theorem storeVStride (ri : Reg) (rj : Reg) (rk : Reg) : Statement (.storeVStride ri rj rk) := rfl
theorem gatherV (ri : Reg) (rj : Reg) (rk : Reg) : Statement (.gatherV ri rj rk) := rfl
theorem scatterV (ri : Reg) (rj : Reg) (rk : Reg) : Statement (.scatterV ri rj rk) := rfl
theorem loadVLocal (ri : Reg) (rk : Reg) : Statement (.loadVLocal ri rk) := rfl
theorem storeVLocal (ri : Reg) (rk : Reg) : Statement (.storeVLocal ri rk) := rfl
theorem pass : Statement .pass := rfl
theorem passAlt : Statement .passAlt := rfl
theorem andS (ri : Reg) (rj : Reg) (rk : Reg) : Statement (.andS ri rj rk) := rfl
theorem andNotS (ri : Reg) (rj : Reg) (rk : Reg) : Statement (.andNotS ri rj rk) := rfl
theorem xorS (ri : Reg) (rj : Reg) (rk : Reg) : Statement (.xorS ri rj rk) := rfl
theorem orS (ri : Reg) (rj : Reg) (rk : Reg) : Statement (.orS ri rj rk) := rfl
theorem addS (ri : Reg) (rj : Reg) (rk : Reg) : Statement (.addS ri rj rk) := rfl
theorem subS (ri : Reg) (rj : Reg) (rk : Reg) : Statement (.subS ri rj rk) := rfl
theorem popcountS (ri : Reg) (rj : Reg) : Statement (.popcountS ri rj) := rfl
theorem parityS (ri : Reg) (rj : Reg) : Statement (.parityS ri rj) := rfl
theorem unspecified106Low (ri : Reg) (rj : Reg) (rk : Reg) : Statement (.unspecified106Low ri rj rk) := rfl
theorem unspecified106High (ri : Reg) (rj : Reg) (rk : Reg) : Statement (.unspecified106High ri rj rk) := rfl
theorem leadingZerosS (ri : Reg) (rj : Reg) : Statement (.leadingZerosS ri rj) := rfl
theorem shiftLeftS (ri : Reg) (jk : Short) : Statement (.shiftLeftS ri jk) := rfl
theorem shiftRightS (ri : Reg) (jk : Short) : Statement (.shiftRightS ri jk) := rfl
theorem doubleShiftLeftS (ri : Reg) (rj : Reg) (rk : Reg) : Statement (.doubleShiftLeftS ri rj rk) := rfl
theorem doubleShiftRightS (ri : Reg) (rj : Reg) (rk : Reg) : Statement (.doubleShiftRightS ri rj rk) := rfl
theorem readVM (ri : Reg) : Statement (.readVM ri) := rfl
theorem readRT (ri : Reg) : Statement (.readRT ri) := rfl
theorem shortPosS (ri : Reg) (jk : Short) : Statement (.shortPosS ri jk) := rfl
theorem shortNegS (ri : Reg) (jk : Short) : Statement (.shortNegS ri jk) := rfl
theorem faddS (ri : Reg) (rj : Reg) (rk : Reg) : Statement (.faddS ri rj rk) := rfl
theorem fsubS (ri : Reg) (rj : Reg) (rk : Reg) : Statement (.fsubS ri rj rk) := rfl
theorem fixS (ri : Reg) (rk : Reg) : Statement (.fixS ri rk) := rfl
theorem floatS (ri : Reg) (rk : Reg) : Statement (.floatS ri rk) := rfl
theorem fmulS (ri : Reg) (rj : Reg) (rk : Reg) : Statement (.fmulS ri rj rk) := rfl
theorem fmulSAlt (ri : Reg) (rj : Reg) (rk : Reg) : Statement (.fmulSAlt ri rj rk) := rfl
theorem recipIterS (ri : Reg) (rj : Reg) (rk : Reg) : Statement (.recipIterS ri rj rk) := rfl
theorem sqrtIterS (ri : Reg) (rj : Reg) (rk : Reg) : Statement (.sqrtIterS ri rj rk) := rfl
theorem moveAToS (ri : Reg) (rk : Reg) : Statement (.moveAToS ri rk) := rfl
theorem moveAToSSigned (ri : Reg) (rk : Reg) : Statement (.moveAToSSigned ri rk) := rfl
theorem recipS (ri : Reg) (rj : Reg) : Statement (.recipS ri rj) := rfl
theorem rsqrtS (ri : Reg) (rj : Reg) : Statement (.rsqrtS ri rj) := rfl
theorem pass134 : Statement .pass134 := rfl
theorem pass135 : Statement .pass135 := rfl
theorem pass136 : Statement .pass136 := rfl
theorem pass137 : Statement .pass137 := rfl
theorem andSV (ri : Reg) (rj : Reg) (rk : Reg) : Statement (.andSV ri rj rk) := rfl
theorem andVV (ri : Reg) (rj : Reg) (rk : Reg) : Statement (.andVV ri rj rk) := rfl
theorem xorSV (ri : Reg) (rj : Reg) (rk : Reg) : Statement (.xorSV ri rj rk) := rfl
theorem xorVV (ri : Reg) (rj : Reg) (rk : Reg) : Statement (.xorVV ri rj rk) := rfl
theorem orSV (ri : Reg) (rj : Reg) (rk : Reg) : Statement (.orSV ri rj rk) := rfl
theorem orVV (ri : Reg) (rj : Reg) (rk : Reg) : Statement (.orVV ri rj rk) := rfl
theorem mergeSV (ri : Reg) (rj : Reg) (rk : Reg) : Statement (.mergeSV ri rj rk) := rfl
theorem mergeVV (ri : Reg) (rj : Reg) (rk : Reg) : Statement (.mergeVV ri rj rk) := rfl
theorem shiftLeftV (ri : Reg) (rj : Reg) (rk : Reg) : Statement (.shiftLeftV ri rj rk) := rfl
theorem shiftRightV (ri : Reg) (rj : Reg) (rk : Reg) : Statement (.shiftRightV ri rj rk) := rfl
theorem doubleShiftLeftV (ri : Reg) (rj : Reg) (rk : Reg) : Statement (.doubleShiftLeftV ri rj rk) := rfl
theorem doubleShiftRightV (ri : Reg) (rj : Reg) (rk : Reg) : Statement (.doubleShiftRightV ri rj rk) := rfl
theorem fmulSV (ri : Reg) (rj : Reg) (rk : Reg) : Statement (.fmulSV ri rj rk) := rfl
theorem fmulVV (ri : Reg) (rj : Reg) (rk : Reg) : Statement (.fmulVV ri rj rk) := rfl
theorem recipIterVV (ri : Reg) (rj : Reg) (rk : Reg) : Statement (.recipIterVV ri rj rk) := rfl
theorem sqrtIterVV (ri : Reg) (rj : Reg) (rk : Reg) : Statement (.sqrtIterVV ri rj rk) := rfl
theorem addSV (ri : Reg) (rj : Reg) (rk : Reg) : Statement (.addSV ri rj rk) := rfl
theorem addVV (ri : Reg) (rj : Reg) (rk : Reg) : Statement (.addVV ri rj rk) := rfl
theorem subSV (ri : Reg) (rj : Reg) (rk : Reg) : Statement (.subSV ri rj rk) := rfl
theorem subVV (ri : Reg) (rj : Reg) (rk : Reg) : Statement (.subVV ri rj rk) := rfl
theorem popcountV (ri : Reg) (rj : Reg) : Statement (.popcountV ri rj) := rfl
theorem parityV (ri : Reg) (rj : Reg) : Statement (.parityV ri rj) := rfl
theorem unspecified164Low (ri : Reg) (rj : Reg) (rk : Reg) : Statement (.unspecified164Low ri rj rk) := rfl
theorem unspecified164High (ri : Reg) (rj : Reg) (rk : Reg) : Statement (.unspecified164High ri rj rk) := rfl
theorem leadingZerosV (ri : Reg) (rj : Reg) : Statement (.leadingZerosV ri rj) := rfl
theorem recipV (ri : Reg) (rk : Reg) : Statement (.recipV ri rk) := rfl
theorem rsqrtV (ri : Reg) (rk : Reg) : Statement (.rsqrtV ri rk) := rfl
theorem faddSV (ri : Reg) (rj : Reg) (rk : Reg) : Statement (.faddSV ri rj rk) := rfl
theorem faddVV (ri : Reg) (rj : Reg) (rk : Reg) : Statement (.faddVV ri rj rk) := rfl
theorem fsubSV (ri : Reg) (rj : Reg) (rk : Reg) : Statement (.fsubSV ri rj rk) := rfl
theorem fsubVV (ri : Reg) (rj : Reg) (rk : Reg) : Statement (.fsubVV ri rj rk) := rfl
theorem fixV (ri : Reg) (rk : Reg) : Statement (.fixV ri rk) := rfl
theorem floatV (ri : Reg) (rk : Reg) : Statement (.floatV ri rk) := rfl
theorem iota (ri : Reg) (rj : Reg) (rk : Reg) : Statement (.iota ri rj rk) := rfl
theorem iotaAlt (ri : Reg) (rj : Reg) (rk : Reg) : Statement (.iotaAlt ri rj rk) := rfl

end Sys2Proof.Laws.EncodedLength
end

