-- ==== Sys2Proof/Tests/Slice0.lean ====
section
/-!
SUPPORT. Tests on fixed values. The words and the expected results are the worked examples in the text of the rules of
the instructions (41_branch_exit_semaphore.md to 48_vector_float_integer.md) unless a comment says otherwise.
-/

namespace Sys2Proof.Tests

set_option Elab.async false

open Sys2Proof.Machine

/-! ## Decoding: one word for every instruction (035004, 106122, 106127, 164122, 164127 are forms of R109) -/

/-- The parcels decode to the instruction and nothing is left over. -/
def decodesTo (x : List Parcel × Instr) : Bool :=
  match decode x.1 with
  | .ok (i, []) => decide (i = x.2)
  | _ => false

theorem test_decode_branches : (List.all [
    ([0x003F], .exit 63),
    ([0x0205], .exitAlt 5),
    ([0x0543], .jumpReg 5 3),
    ([0x0600, 0x0000, 0x029C], .jump 0o1234),
    ([0x0800, 0x0000, 0x0100], .jumpSemClear 0o400),
    ([0x0A00, 0x0000, 0x0100], .jumpSemSet 0o400),
    ([0x0C00], .setSem),
    ([0x0E00], .clearSem),
    ([0x1003, 0x0000, 0x0080], .jumpAZero 3 0o200),
    ([0x1203, 0x0000, 0x0080], .jumpANonzero 3 0o200),
    ([0x1403, 0x0000, 0x0080], .jumpAPositive 3 0o200),
    ([0x1603, 0x0000, 0x0080], .jumpANegative 3 0o200),
    ([0x1810, 0x0000, 0x0080], .jumpSZero 2 0o200),
    ([0x1A10, 0x0000, 0x0080], .jumpSNonzero 2 0o200),
    ([0x1C10, 0x0000, 0x0080], .jumpSPositive 2 0o200),
    ([0x1E10, 0x0000, 0x0080], .jumpSNegative 2 0o200)] decodesTo) = true := by decide +kernel

theorem test_decode_address : (List.all [
    ([0x2053], .addA 1 2 3),
    ([0x2253], .subA 1 2 3),
    ([0x2453], .mulA 1 2 3),
    ([0x2653], .mulAAlt 1 2 3),
    ([0x2898], .moveSToA 2 3),
    ([0x2B00], .readVL 4),
    ([0x2CBF], .shortPosA 2 63),
    ([0x2EBF], .shortNegA 2 63),
    ([0x3003], .maskZero 3),
    ([0x3203], .maskNonzero 3),
    ([0x3403], .maskPositive 3),
    ([0x3603], .maskNegative 3),
    ([0x3828], .writeVM 5),
    ([0x3A00], .disableRangeHalt),
    ([0x3A01], .enableRangeHalt),
    ([0x3A02], .disableFloatHalt),
    ([0x3A03], .enableFloatHalt),
    ([0x3A04], .unspecified035 4),
    ([0x3C04], .writeVL 4),
    ([0x3E04], .writeVLAlt 4)] decodesTo) = true := by decide +kernel

theorem test_decode_entry : (List.all [
    ([0x40C0, 0xFFFF], .parcelPosA 3 0xFFFF),
    ([0x42C0, 0xFFFE], .parcelNegA 3 0xFFFE),
    ([0x44C0, 0x1234, 0x5678], .halfA 3 0x12345678),
    ([0x46C0, 0x0000, 0x0007], .halfAAlt 3 7),
    ([0x4880, 0x0040], .loadALocal 2 0o100),
    ([0x4A03, 0x0040], .storeALocal 3 0o100),
    ([0x4C85], .loadALocalReg 2 5),
    ([0x4E1D], .storeALocalReg 3 5),
    ([0x5040, 0xDEAD, 0xBEEF], .halfPosS 1 0xDEADBEEF),
    ([0x5240, 0xFFFF, 0xFFFE], .halfNegS 1 0xFFFFFFFE),
    ([0x5440, 0x4001, 0x8000], .leftS 1 0x40018000),
    ([0x5640, 0x0001, 0x0002, 0x0003, 0x0004], .fullS 1 0x0001000200030004),
    ([0x5880, 0x0040], .loadSLocal 2 0o100),
    ([0x5A18, 0x0040], .storeSLocal 3 0o100),
    ([0x5C85], .loadSLocalReg 2 5),
    ([0x5E85], .storeSLocalReg 2 5)] decodesTo) = true := by decide +kernel

theorem test_decode_common_memory : (List.all [
    ([0x6053], .loadSIndexed 1 2 3),
    ([0x6253], .storeSIndexed 1 2 3),
    ([0x6443], .loadSReg 1 3),
    ([0x6643], .storeSReg 1 3),
    ([0x6843, 0xFFFF, 0xFFFF], .loadSDisp 1 3 0xFFFFFFFF),
    ([0x6A43, 0x0000, 0x0002], .storeSDisp 1 3 2),
    ([0x6C40, 0x0000, 0x0040], .loadSDirect 1 0o100),
    ([0x6E40, 0x0000, 0x0040], .storeSDirect 1 0o100),
    ([0x7053], .loadVStride 1 2 3),
    ([0x7253], .storeVStride 1 2 3),
    ([0x7453], .gatherV 1 2 3),
    ([0x7653], .scatterV 1 2 3),
    ([0x7843], .loadVLocal 1 3),
    ([0x7A43], .storeVLocal 1 3),
    ([0x7C53], .pass),
    ([0x7E00], .passAlt)] decodesTo) = true := by decide +kernel

theorem test_decode_scalar : (List.all [
    ([0x8053], .andS 1 2 3),
    ([0x8253], .andNotS 1 2 3),
    ([0x8453], .xorS 1 2 3),
    ([0x8653], .orS 1 2 3),
    ([0x8853], .addS 1 2 3),
    ([0x8A53], .subS 1 2 3),
    ([0x8C50], .popcountS 1 2),
    ([0x8C51], .parityS 1 2),
    ([0x8C52], .unspecified106Low 1 2 2),
    ([0x8C57], .unspecified106High 1 2 7),
    ([0x8E50], .leadingZerosS 1 2),
    ([0x907C], .shiftLeftS 1 0o74),
    ([0x9244], .shiftRightS 1 4),
    ([0x9453], .doubleShiftLeftS 1 2 3),
    ([0x9653], .doubleShiftRightS 1 2 3),
    ([0x9840], .readVM 1),
    ([0x9A40], .readRT 1),
    ([0x9C7F], .shortPosS 1 63),
    ([0x9E7E], .shortNegS 1 62)] decodesTo) = true := by decide +kernel

theorem test_decode_scalar_float : (List.all [
    ([0xA053], .faddS 1 2 3),
    ([0xA253], .fsubS 1 2 3),
    ([0xA443], .fixS 1 3),
    ([0xA643], .floatS 1 3),
    ([0xA853], .fmulS 1 2 3),
    ([0xAA53], .fmulSAlt 1 2 3),
    ([0xAC53], .recipIterS 1 2 3),
    ([0xAF13], .sqrtIterS 4 2 3),
    ([0xB043], .moveAToS 1 3),
    ([0xB243], .moveAToSSigned 1 3),
    ([0xB450], .recipS 1 2),
    ([0xB650], .rsqrtS 1 2),
    ([0xB800], .pass134),
    ([0xBA00], .pass135),
    ([0xBC00], .pass136),
    ([0xBE00], .pass137)] decodesTo) = true := by decide +kernel

theorem test_decode_vector_logical : (List.all [
    ([0xC053], .andSV 1 2 3),
    ([0xC253], .andVV 1 2 3),
    ([0xC453], .xorSV 1 2 3),
    ([0xC653], .xorVV 1 2 3),
    ([0xC853], .orSV 1 2 3),
    ([0xCA52], .orVV 1 2 2),
    ([0xCC53], .mergeSV 1 2 3),
    ([0xCE53], .mergeVV 1 2 3),
    ([0xD053], .shiftLeftV 1 2 3),
    ([0xD253], .shiftRightV 1 2 3),
    ([0xD453], .doubleShiftLeftV 1 2 3),
    ([0xD653], .doubleShiftRightV 1 2 3)] decodesTo) = true := by decide +kernel

theorem test_decode_vector_arithmetic : (List.all [
    ([0xD853], .fmulSV 1 2 3),
    ([0xDA53], .fmulVV 1 2 3),
    ([0xDC53], .recipIterVV 1 2 3),
    ([0xDE53], .sqrtIterVV 1 2 3),
    ([0xE053], .addSV 1 2 3),
    ([0xE253], .addVV 1 2 3),
    ([0xE453], .subSV 1 2 3),
    ([0xE653], .subVV 1 2 3),
    ([0xE850], .popcountV 1 2),
    ([0xE851], .parityV 1 2),
    ([0xE852], .unspecified164Low 1 2 2),
    ([0xE857], .unspecified164High 1 2 7),
    ([0xEA50], .leadingZerosV 1 2),
    ([0xEC43], .recipV 1 3),
    ([0xEE43], .rsqrtV 1 3),
    ([0xF053], .faddSV 1 2 3),
    ([0xF253], .faddVV 1 2 3),
    ([0xF453], .fsubSV 1 2 3),
    ([0xF653], .fsubVV 1 2 3),
    ([0xF843], .fixV 1 3),
    ([0xFA43], .floatV 1 3),
    ([0xFC53], .iota 1 2 3),
    ([0xFFFF], .iotaAlt 7 7 7)] decodesTo) = true := by decide +kernel

/-- Missing parcels are refused by name (R103). -/
theorem test_decode_truncated : decode [0x5640, 1, 2, 3] = .error (.truncated 5 4) := by decide

/-- 024230 decodes the same with its ignored k field at 7 (R105). -/
theorem test_decode_ignored_field : decode [0x289F] = .ok (.moveSToA 2 3, []) := by decide

/-- The numbering of the opcode table: the first parcel is bits 15..0, the operand parcels past `nbits` are zero. -/
theorem test_table_word : decodeTableWord 16 0x5640 = some (.fullS 1 0) := by decide +kernel

/-! ## Well-formedness: an ill-formed term for each check -/

theorem test_illformed_035 : Instr.wellFormed (.unspecified035 3) = false := by decide
theorem test_illformed_106_low : Instr.wellFormed (.unspecified106Low 1 2 4) = false := by decide
theorem test_illformed_106_high : Instr.wellFormed (.unspecified106High 1 2 3) = false := by decide
theorem test_illformed_164_low : Instr.wellFormed (.unspecified164Low 1 2 1) = false := by decide
theorem test_illformed_164_high : Instr.wellFormed (.unspecified164High 1 2 2) = false := by decide

/-! ## A small machine -/

/-- A running machine with the field 0o1000 to 0o2000 and Common Memory empty. -/
def machine : State :=
  { State.reset with
    ba := 0o1000
    la := 0o2000
    p := 0o100
    run := .running
    st := { Status.reset with idleMode := false } }

/-- Words put into Common Memory before the computation period. -/
def withCommon (s : State) (l : List (Nat × Word)) : State :=
  { s with cm := l.foldl (fun m x => Memory.writeWord m x.1 x.2) s.cm }

/-- Words put into Local Memory. -/
def withLocal (s : State) (l : List (Nat × Word)) : State :=
  { s with lm := l.foldl (fun m x => Memory.writeWord m x.1 x.2) s.lm }

/-- The first elements of V_r. -/
def withV (s : State) (r : Reg) (l : List Word) : State := s.setV r l.length fun e => l.getD e 0

/-- What an observation gives on the next state, if there is one. -/
def after {α : Type} (r : Result) (f : State → α) : Option α :=
  match r with
  | .next t => some (f t)
  | _ => none

/-- The fault that ends the run, if one does. -/
def faultOf (r : Result) : Option Fault :=
  match r with
  | .fault f => some f
  | _ => none

/-! ## One instruction at a time -/

theorem test_exit :
    after (exec (.exit 63) machine)
      (fun t => (t.st.exitCode, t.st.exitMode, t.st.idleMode, t.run)) = some ((63, true, true, .idle)) := by decide +kernel
theorem test_exitAlt :
    after (exec (.exitAlt 5) machine)
      (fun t => (t.st.exitCode, t.run)) = some ((5, .idle)) := by decide +kernel
theorem test_jumpReg :
    after (exec (.jumpReg 5 3) (machine |>.setA 3 0o2000))
      (fun t => (t.getA 5, t.p)) = some ((0o101, 0o2000)) := by decide +kernel
theorem test_jumpReg_same :
    after (exec (.jumpReg 5 5) (machine |>.jumpTo 0o2010 |>.setA 5 0o101))
      (fun t => (t.getA 5, t.p)) = some ((0o2011, 0o101)) := by decide +kernel
theorem test_jump :
    after (exec (.jump 0o1234) machine)
      (fun t => t.p) = some (0o1234) := by decide +kernel
theorem test_jumpSemClear :
    after (exec (.jumpSemClear 0o400) machine)
      (fun t => (t.sem[0], t.st.semBit, t.p)) = some ((true, true, 0o400)) := by decide +kernel
theorem test_jumpSemClear_held :
    after (exec (.jumpSemClear 0o400) (machine |>.setSemFlag true))
      (fun t => (t.sem[0], t.st.semBit, t.p)) = some ((true, false, 0o103)) := by decide +kernel
theorem test_jumpSemSet :
    after (exec (.jumpSemSet 0o400) (machine |>.setSemFlag true))
      (fun t => (t.sem[0], t.st.semBit, t.p)) = some ((true, false, 0o400)) := by decide +kernel
theorem test_jumpSemSet_free :
    after (exec (.jumpSemSet 0o400) machine)
      (fun t => (t.sem[0], t.st.semBit, t.p)) = some ((true, true, 0o103)) := by decide +kernel
theorem test_setSem :
    after (exec (.setSem) machine)
      (fun t => (t.sem[0], t.st.semBit)) = some ((true, true)) := by decide +kernel
theorem test_clearSem :
    after (exec (.clearSem) (machine |>.takeSem))
      (fun t => (t.sem[0], t.st.semBit)) = some ((false, false)) := by decide +kernel
theorem test_jumpAZero :
    after (exec (.jumpAZero 3 0o200) machine)
      (fun t => t.p) = some (0o200) := by decide +kernel
theorem test_jumpAZero_not :
    after (exec (.jumpAZero 3 0o200) (machine |>.setA 3 1))
      (fun t => t.p) = some (0o103) := by decide +kernel
theorem test_jumpANonzero :
    after (exec (.jumpANonzero 3 0o200) (machine |>.setA 3 0xFFFFFFFF))
      (fun t => t.p) = some (0o200) := by decide +kernel
theorem test_jumpAPositive :
    after (exec (.jumpAPositive 3 0o200) (machine |>.setA 3 0x7FFFFFFF))
      (fun t => t.p) = some (0o200) := by decide +kernel
theorem test_jumpAPositive_not :
    after (exec (.jumpAPositive 3 0o200) (machine |>.setA 3 0x80000000))
      (fun t => t.p) = some (0o103) := by decide +kernel
theorem test_jumpANegative :
    after (exec (.jumpANegative 3 0o200) (machine |>.setA 3 0x80000000))
      (fun t => t.p) = some (0o200) := by decide +kernel
theorem test_jumpSZero_not :
    after (exec (.jumpSZero 2 0o200) (machine |>.setS 2 0x8000000000000000))
      (fun t => t.p) = some (0o103) := by decide +kernel
theorem test_jumpSNonzero :
    after (exec (.jumpSNonzero 2 0o200) (machine |>.setS 2 0x100000000))
      (fun t => t.p) = some (0o200) := by decide +kernel
theorem test_jumpSPositive :
    after (exec (.jumpSPositive 2 0o200) (machine |>.setS 2 0x4001800000000000))
      (fun t => t.p) = some (0o200) := by decide +kernel
theorem test_jumpSNegative :
    after (exec (.jumpSNegative 2 0o200) (machine |>.setS 2 0xC001800000000000))
      (fun t => t.p) = some (0o200) := by decide +kernel
theorem test_addA :
    after (exec (.addA 1 2 3) (machine |>.setA 2 0xFFFFFFFF |>.setA 3 2))
      (fun t => t.getA 1) = some (1) := by decide +kernel
theorem test_subA :
    after (exec (.subA 1 2 3) (machine |>.setA 3 1))
      (fun t => t.getA 1) = some (0xFFFFFFFF) := by decide +kernel
theorem test_mulA :
    after (exec (.mulA 1 2 3) (machine |>.setA 2 0x00010000 |>.setA 3 0x00010001))
      (fun t => t.getA 1) = some (0x00010000) := by decide +kernel
theorem test_mulAAlt :
    after (exec (.mulAAlt 1 2 3) (machine |>.setA 2 3 |>.setA 3 5))
      (fun t => t.getA 1) = some (15) := by decide +kernel
theorem test_moveSToA :
    after (exec (.moveSToA 2 3) (machine |>.setS 3 0x123456789ABCDEF0))
      (fun t => t.getA 2) = some (0x9ABCDEF0) := by decide +kernel
theorem test_readVL :
    after (exec (.readVL 4) (machine |>.setVL 0o77))
      (fun t => t.getA 4) = some (63) := by decide +kernel
theorem test_shortPosA :
    after (exec (.shortPosA 2 63) machine)
      (fun t => t.getA 2) = some (0x0000003F) := by decide +kernel
theorem test_shortNegA :
    after (exec (.shortNegA 2 0) machine)
      (fun t => t.getA 2) = some (0xFFFFFFC0) := by decide +kernel
theorem test_maskZero :
    after (exec (.maskZero 3) (machine |>.setVL 3 |> (withV · 3 [0, 5, 0])))
      (fun t => t.vm) = some (0xA000000000000000) := by decide +kernel
theorem test_maskNonzero :
    after (exec (.maskNonzero 3) (machine |>.setVL 3 |> (withV · 3 [0, 5, 0])))
      (fun t => t.vm) = some (0x4000000000000000) := by decide +kernel
theorem test_maskPositive :
    after (exec (.maskPositive 3) (machine |>.setVL 3 |> (withV · 3 [0, 0x8000000000000000, 7])))
      (fun t => t.vm) = some (0xA000000000000000) := by decide +kernel
theorem test_maskNegative :
    after (exec (.maskNegative 3) (machine |>.setVL 3 |> (withV · 3 [0, 0x8000000000000000, 7])))
      (fun t => t.vm) = some (0x4000000000000000) := by decide +kernel
theorem test_writeVM :
    after (exec (.writeVM 5) (machine |>.setS 5 0xF000000000000000))
      (fun t => t.vm) = some (0xF000000000000000) := by decide +kernel
theorem test_disableRangeHalt :
    after (exec (.disableRangeHalt) (machine |>.setEnRangeHalt true |>.setEnFloatHalt true))
      (fun t => (t.st.enRangeHalt, t.st.enFloatHalt)) = some ((false, true)) := by decide +kernel
theorem test_enableRangeHalt :
    after (exec (.enableRangeHalt) machine)
      (fun t => (t.st.enRangeHalt, t.st.enFloatHalt)) = some ((true, false)) := by decide +kernel
theorem test_disableFloatHalt :
    after (exec (.disableFloatHalt) (machine |>.setEnRangeHalt true |>.setEnFloatHalt true))
      (fun t => (t.st.enRangeHalt, t.st.enFloatHalt)) = some ((true, false)) := by decide +kernel
theorem test_enableFloatHalt :
    after (exec (.enableFloatHalt) machine)
      (fun t => (t.st.enRangeHalt, t.st.enFloatHalt)) = some ((false, true)) := by decide +kernel
theorem test_writeVL :
    after (exec (.writeVL 4) (machine |>.setA 4 100))
      (fun t => t.vl) = some (36) := by decide +kernel
theorem test_writeVLAlt :
    after (exec (.writeVLAlt 4) (machine |>.setA 4 64 |>.setVL 5))
      (fun t => (t.vl, t.vlen)) = some ((0, 64)) := by decide +kernel
theorem test_parcelPosA :
    after (exec (.parcelPosA 3 0xFFFF) machine)
      (fun t => t.getA 3) = some (0x0000FFFF) := by decide +kernel
theorem test_parcelNegA :
    after (exec (.parcelNegA 3 0xFFFE) machine)
      (fun t => t.getA 3) = some (0xFFFFFFFE) := by decide +kernel
theorem test_halfA :
    after (exec (.halfA 3 0x12345678) machine)
      (fun t => t.getA 3) = some (0x12345678) := by decide +kernel
theorem test_halfAAlt :
    after (exec (.halfAAlt 3 7) machine)
      (fun t => t.getA 3) = some (7) := by decide +kernel
theorem test_loadALocal :
    after (exec (.loadALocal 2 0o100) (machine |> (withLocal · [(0o100, 0xFFFFFFFF00000005)])))
      (fun t => t.getA 2) = some (5) := by decide +kernel
theorem test_storeALocal :
    after (exec (.storeALocal 3 0o100) (machine |>.setA 3 0x80000000))
      (fun t => t.lm.word? 0o100) = some (some 0xFFFFFFFF80000000) := by decide +kernel
theorem test_loadALocalReg :
    after (exec (.loadALocalReg 2 5) (machine |>.setA 5 0o100 |> (withLocal · [(0o100, 7)])))
      (fun t => t.getA 2) = some (7) := by decide +kernel
theorem test_storeALocalReg :
    after (exec (.storeALocalReg 3 5) (machine |>.setA 5 0o100 |>.setA 3 0xFFFFFFFE))
      (fun t => t.lm.word? 0o100) = some (some 0xFFFFFFFFFFFFFFFE) := by decide +kernel
theorem test_halfPosS :
    after (exec (.halfPosS 1 0xDEADBEEF) machine)
      (fun t => t.getS 1) = some (0x00000000DEADBEEF) := by decide +kernel
theorem test_halfNegS :
    after (exec (.halfNegS 1 0xFFFFFFFE) machine)
      (fun t => t.getS 1) = some (0xFFFFFFFFFFFFFFFE) := by decide +kernel
theorem test_leftS :
    after (exec (.leftS 1 0x40018000) machine)
      (fun t => t.getS 1) = some (0x4001800000000000) := by decide +kernel
theorem test_fullS :
    after (exec (.fullS 1 0x0001000200030004) machine)
      (fun t => (t.getS 1, t.p)) = some ((0x0001000200030004, 0o105)) := by decide +kernel
theorem test_loadSLocal :
    after (exec (.loadSLocal 2 0o100) (machine |> (withLocal · [(0o100, 0x0123456789ABCDEF)])))
      (fun t => t.getS 2) = some (0x0123456789ABCDEF) := by decide +kernel
theorem test_storeSLocal :
    after (exec (.storeSLocal 3 0o100) (machine |>.setS 3 9))
      (fun t => t.lm.word? 0o100) = some (some 9) := by decide +kernel
theorem test_loadSLocalReg :
    after (exec (.loadSLocalReg 2 5) (machine |>.setA 5 16383 |> (withLocal · [(16383, 1)])))
      (fun t => t.getS 2) = some (1) := by decide +kernel
theorem test_storeSLocalReg :
    after (exec (.storeSLocalReg 2 5) (machine |>.setS 2 0xFFFFFFFFFFFFFFFF))
      (fun t => t.lm.word? 0) = some (some 0xFFFFFFFFFFFFFFFF) := by decide +kernel
theorem test_loadSIndexed :
    after (exec (.loadSIndexed 1 2 3) (machine |>.setA 2 0o10 |>.setA 3 0o20 |> (withCommon · [(0o1030, 7)])))
      (fun t => t.getS 1) = some (7) := by decide +kernel
theorem test_storeSIndexed :
    after (exec (.storeSIndexed 1 2 3) (machine |>.setA 2 0o10 |>.setA 3 0o20 |>.setS 1 9))
      (fun t => t.cm.word? 0o1030) = some (some 9) := by decide +kernel
theorem test_loadSReg :
    after (exec (.loadSReg 1 3) (machine |>.setA 3 0o20 |> (withCommon · [(0o1020, 5)])))
      (fun t => t.getS 1) = some (5) := by decide +kernel
theorem test_storeSReg :
    after (exec (.storeSReg 1 3) (machine |>.setA 3 0o20 |>.setS 1 6))
      (fun t => t.cm.word? 0o1020) = some (some 6) := by decide +kernel
theorem test_loadSDisp :
    after (exec (.loadSDisp 1 3 0xFFFFFFFF) (machine |>.setA 3 0o20 |> (withCommon · [(0o1017, 4)])))
      (fun t => t.getS 1) = some (4) := by decide +kernel
theorem test_storeSDisp :
    after (exec (.storeSDisp 1 3 2) (machine |>.setA 3 0o20 |>.setS 1 8))
      (fun t => t.cm.word? 0o1022) = some (some 8) := by decide +kernel
theorem test_loadSDirect :
    after (exec (.loadSDirect 1 0o100) (machine |> (withCommon · [(0o1100, 3)])))
      (fun t => t.getS 1) = some (3) := by decide +kernel
theorem test_loadSDirect_outside :
    after (exec (.loadSDirect 1 0o1000) (machine |>.setS 1 5))
      (fun t => (t.getS 1, t.st.rangeErr, t.run)) = some ((0, true, .running)) := by decide +kernel
theorem test_storeSDirect :
    after (exec (.storeSDirect 1 0o100) (machine |>.setS 1 2))
      (fun t => t.cm.word? 0o1100) = some (some 2) := by decide +kernel
theorem test_storeSDirect_outside :
    after (exec (.storeSDirect 1 0o1000) (machine |>.setS 1 2))
      (fun t => (t.cm, t.st.rangeErr)) = some (([], true)) := by decide +kernel
theorem test_loadVStride :
    after (exec (.loadVStride 1 2 3) (machine
      |>.setA 2 0o100
      |>.setA 3 2
      |>.setVL 3
      |> (withCommon · [(0o1100, 1), (0o1102, 2), (0o1104, 3)])))
      (fun t => (t.elem 1 0, t.elem 1 1, t.elem 1 2)) = some ((1, 2, 3)) := by decide +kernel
theorem test_storeVStride :
    after (exec (.storeVStride 1 2 3) (machine |>.setA 2 0o200 |>.setA 3 1 |>.setVL 2 |> (withV · 1 [5, 6])))
      (fun t => (t.cm.word? 0o1200, t.cm.word? 0o1201)) = some ((some 5, some 6)) := by decide +kernel
theorem test_gatherV :
    after (exec (.gatherV 1 2 3) (machine
      |>.setA 3 0o100
      |>.setVL 2
      |> (withV · 2 [5, 0xFFFFFFFF00000001])
      |> (withCommon · [(0o1105, 11), (0o1101, 12)])))
      (fun t => (t.elem 1 0, t.elem 1 1)) = some ((11, 12)) := by decide +kernel
theorem test_scatterV :
    after (exec (.scatterV 1 2 3) (machine
      |>.setA 3 0o100
      |>.setVL 2
      |> (withV · 2 [3, 1])
      |> (withV · 1 [7, 8])))
      (fun t => (t.cm.word? 0o1103, t.cm.word? 0o1101)) = some ((some 7, some 8)) := by decide +kernel
theorem test_loadVLocal :
    after (exec (.loadVLocal 1 3) (machine |>.setA 3 0o10 |>.setVL 2 |> (withLocal · [(0o10, 1), (0o11, 2)])))
      (fun t => (t.elem 1 0, t.elem 1 1)) = some ((1, 2)) := by decide +kernel
theorem test_storeVLocal :
    after (exec (.storeVLocal 1 3) (machine |>.setA 3 0o10 |>.setVL 2 |> (withV · 1 [3, 4])))
      (fun t => (t.lm.word? 0o10, t.lm.word? 0o11)) = some ((some 3, some 4)) := by decide +kernel
theorem test_pass :
    after (exec (.pass) machine)
      (fun t => t) = some (machine.advance 1) := by decide +kernel
theorem test_passAlt :
    after (exec (.passAlt) machine)
      (fun t => t) = some (machine.advance 1) := by decide +kernel
theorem test_andS :
    after (exec (.andS 1 2 3) (machine |>.setS 2 0xFF00 |>.setS 3 0x0FF0))
      (fun t => t.getS 1) = some (0x0F00) := by decide +kernel
theorem test_andNotS :
    after (exec (.andNotS 1 2 3) (machine |>.setS 2 0xFF00 |>.setS 3 0x0FF0))
      (fun t => t.getS 1) = some (0xF000) := by decide +kernel
theorem test_xorS :
    after (exec (.xorS 1 2 3) (machine |>.setS 2 0xFF00 |>.setS 3 0x0FF0))
      (fun t => t.getS 1) = some (0xF0F0) := by decide +kernel
theorem test_orS :
    after (exec (.orS 1 2 3) (machine |>.setS 2 0xFF00 |>.setS 3 0x0FF0))
      (fun t => t.getS 1) = some (0xFFF0) := by decide +kernel
theorem test_addS :
    after (exec (.addS 1 2 3) (machine |>.setS 2 0xFFFFFFFFFFFFFFFF |>.setS 3 2))
      (fun t => t.getS 1) = some (1) := by decide +kernel
theorem test_subS :
    after (exec (.subS 1 2 3) (machine |>.setS 3 1))
      (fun t => t.getS 1) = some (0xFFFFFFFFFFFFFFFF) := by decide +kernel
theorem test_popcountS :
    after (exec (.popcountS 1 2) (machine |>.setS 2 0xF0F0))
      (fun t => t.getS 1) = some (8) := by decide +kernel
theorem test_popcountS_all :
    after (exec (.popcountS 1 2) (machine |>.setS 2 0xFFFFFFFFFFFFFFFF))
      (fun t => t.getS 1) = some (64) := by decide +kernel
theorem test_parityS :
    after (exec (.parityS 1 2) (machine |>.setS 2 7))
      (fun t => t.getS 1) = some (1) := by decide +kernel
theorem test_parityS_even :
    after (exec (.parityS 1 2) (machine |>.setS 2 3))
      (fun t => t.getS 1) = some (0) := by decide +kernel
theorem test_leadingZerosS :
    after (exec (.leadingZerosS 1 2) (machine |>.setS 2 1))
      (fun t => t.getS 1) = some (63) := by decide +kernel
theorem test_leadingZerosS_zero :
    after (exec (.leadingZerosS 1 2) machine)
      (fun t => t.getS 1) = some (64) := by decide +kernel
theorem test_shiftLeftS :
    after (exec (.shiftLeftS 1 0o74) (machine |>.setS 1 0x0F))
      (fun t => t.getS 1) = some (0xF0) := by decide +kernel
theorem test_shiftLeftS_64 :
    after (exec (.shiftLeftS 1 0) (machine |>.setS 1 0x0F))
      (fun t => t.getS 1) = some (0) := by decide +kernel
theorem test_shiftRightS :
    after (exec (.shiftRightS 1 4) (machine |>.setS 1 0x8000000000000000))
      (fun t => t.getS 1) = some (0x0800000000000000) := by decide +kernel
theorem test_doubleShiftLeftS :
    after (exec (.doubleShiftLeftS 1 2 3) (machine |>.setS 1 0xFF |>.setS 2 0xA000000000000000 |>.setA 3 4))
      (fun t => t.getS 1) = some (0x0FFA) := by decide +kernel
theorem test_doubleShiftLeftS_large :
    after (exec (.doubleShiftLeftS 1 2 3) (machine |>.setS 1 0xFF |>.setA 3 0xFFFFFFFF))
      (fun t => t.getS 1) = some (0) := by decide +kernel
theorem test_doubleShiftRightS :
    after (exec (.doubleShiftRightS 1 2 3) (machine |>.setS 1 0xFF00000000000000 |>.setS 2 0x0A |>.setA 3 4))
      (fun t => t.getS 1) = some (0xAFF0000000000000) := by decide +kernel
theorem test_readVM :
    after (exec (.readVM 1) (machine |>.setVM 0xC000000000000000))
      (fun t => t.getS 1) = some (0xC000000000000000) := by decide +kernel
theorem test_readRT :
    after (exec (.readRT 1) machine)
      (fun t => decide (t.getS 1 = t.rtc)) = some (true) := by decide +kernel
theorem test_shortPosS :
    after (exec (.shortPosS 1 63) machine)
      (fun t => t.getS 1) = some (63) := by decide +kernel
theorem test_shortNegS :
    after (exec (.shortNegS 1 62) machine)
      (fun t => t.getS 1) = some (0xFFFFFFFFFFFFFFFE) := by decide +kernel
theorem test_faddS :
    after (exec (.faddS 1 2 3) (machine |>.setS 2 0x4001800000000000 |>.setS 3 0x4001800000000000))
      (fun t => t.getS 1) = some (0x4002800000000000) := by decide +kernel
theorem test_fsubS :
    after (exec (.fsubS 1 2 3) (machine |>.setS 2 0x4002800000000000 |>.setS 3 0x4001800000000000))
      (fun t => t.getS 1) = some (0x4001800000000000) := by decide +kernel
theorem test_fixS :
    after (exec (.fixS 1 3) (machine |>.setS 3 0x4003C00000000000))
      (fun t => t.getS 1) = some (6) := by decide +kernel
theorem test_fixS_negative :
    after (exec (.fixS 1 3) (machine |>.setS 3 0xC003C00000000000))
      (fun t => t.getS 1) = some (0xFFFFFFFFFFFFFFFA) := by decide +kernel
theorem test_floatS :
    after (exec (.floatS 1 3) (machine |>.setS 3 6))
      (fun t => t.getS 1) = some (0x4003C00000000000) := by decide +kernel
theorem test_fmulS :
    after (exec (.fmulS 1 2 3) (machine |>.setS 2 0x4002800000000000 |>.setS 3 0x4002C00000000000))
      (fun t => t.getS 1) = some (0x4003C00000000000) := by decide +kernel
theorem test_fmulSAlt :
    after (exec (.fmulSAlt 1 2 3) (machine |>.setS 2 0x4002800000000000 |>.setS 3 0x4002C00000000000))
      (fun t => t.getS 1) = some (0x4003C00000000000) := by decide +kernel
theorem test_moveAToS :
    after (exec (.moveAToS 1 3) (machine |>.setA 3 0xFFFFFFFE))
      (fun t => t.getS 1) = some (0x00000000FFFFFFFE) := by decide +kernel
theorem test_moveAToSSigned :
    after (exec (.moveAToSSigned 1 3) (machine |>.setA 3 0xFFFFFFFE))
      (fun t => t.getS 1) = some (0xFFFFFFFFFFFFFFFE) := by decide +kernel
theorem test_pass134 :
    after (exec (.pass134) machine)
      (fun t => t) = some (machine.advance 1) := by decide +kernel
theorem test_pass135 :
    after (exec (.pass135) machine)
      (fun t => t) = some (machine.advance 1) := by decide +kernel
theorem test_pass136 :
    after (exec (.pass136) machine)
      (fun t => t) = some (machine.advance 1) := by decide +kernel
theorem test_pass137 :
    after (exec (.pass137) machine)
      (fun t => t) = some (machine.advance 1) := by decide +kernel
theorem test_andSV :
    after (exec (.andSV 1 2 3) (machine |>.setVL 2 |>.setS 2 0xFF |> (withV · 3 [0x1234, 0xABCD])))
      (fun t => (t.elem 1 0, t.elem 1 1)) = some ((0x34, 0xCD)) := by decide +kernel
theorem test_andVV :
    after (exec (.andVV 1 2 3) (machine |>.setVL 1 |> (withV · 2 [0xFF00]) |> (withV · 3 [0x0FF0])))
      (fun t => t.elem 1 0) = some (0x0F00) := by decide +kernel
theorem test_xorSV :
    after (exec (.xorSV 1 2 3) (machine |>.setVL 1 |>.setS 2 0xFF |> (withV · 3 [0x0F])))
      (fun t => t.elem 1 0) = some (0xF0) := by decide +kernel
theorem test_xorSV_broadcast :
    after (exec (.xorSV 1 2 1) (machine |>.setVL 1 |>.setS 2 9 |> (withV · 1 [5, 6])))
      (fun t => (t.elem 1 0, t.elem 1 1)) = some ((9, 6)) := by decide +kernel
theorem test_xorVV :
    after (exec (.xorVV 1 2 3) (machine |>.setVL 1 |> (withV · 2 [0xFF00]) |> (withV · 3 [0x0FF0])))
      (fun t => t.elem 1 0) = some (0xF0F0) := by decide +kernel
theorem test_orSV :
    after (exec (.orSV 1 2 3) (machine |>.setVL 1 |>.setS 2 0xF0 |> (withV · 3 [0x0F])))
      (fun t => t.elem 1 0) = some (0xFF) := by decide +kernel
theorem test_orVV :
    after (exec (.orVV 1 2 3) (machine |>.setVL 1 |> (withV · 2 [2]) |> (withV · 3 [1])))
      (fun t => t.elem 1 0) = some (3) := by decide +kernel
theorem test_mergeSV :
    after (exec (.mergeSV 1 2 3) (machine
      |>.setVL 2
      |>.setVM 0x8000000000000000
      |>.setS 2 9
      |> (withV · 3 [1, 2])))
      (fun t => (t.elem 1 0, t.elem 1 1)) = some ((9, 2)) := by decide +kernel
theorem test_mergeVV :
    after (exec (.mergeVV 1 2 3) (machine
      |>.setVL 2
      |>.setVM 0x4000000000000000
      |> (withV · 2 [10, 20])
      |> (withV · 3 [1, 2])))
      (fun t => (t.elem 1 0, t.elem 1 1)) = some ((1, 20)) := by decide +kernel
theorem test_shiftLeftV :
    after (exec (.shiftLeftV 1 2 3) (machine |>.setVL 1 |>.setA 3 4 |> (withV · 2 [0x0F])))
      (fun t => t.elem 1 0) = some (0xF0) := by decide +kernel
theorem test_shiftRightV :
    after (exec (.shiftRightV 1 2 3) (machine |>.setVL 1 |>.setA 3 4 |> (withV · 2 [0x8000000000000000])))
      (fun t => t.elem 1 0) = some (0x0800000000000000) := by decide +kernel
theorem test_doubleShiftLeftV :
    after (exec (.doubleShiftLeftV 1 2 3) (machine
      |>.setVL 2
      |>.setA 3 4
      |> (withV · 2 [0xFF, 0xA000000000000000])))
      (fun t => (t.elem 1 0, t.elem 1 1)) = some ((0x0FFA, 0)) := by decide +kernel
theorem test_doubleShiftRightV :
    after (exec (.doubleShiftRightV 1 2 3) (machine
      |>.setVL 2
      |>.setA 3 4
      |> (withV · 2 [0x0A, 0xFF00000000000000])))
      (fun t => (t.elem 1 0, t.elem 1 1)) = some ((0, 0xAFF0000000000000)) := by decide +kernel
theorem test_fmulSV :
    after (exec (.fmulSV 1 2 3) (machine
      |>.setVL 2
      |>.setS 2 0x4002800000000000
      |> (withV · 3 [0x4002C00000000000, 0])))
      (fun t => (t.elem 1 0, t.elem 1 1)) = some ((0x4003C00000000000, 0)) := by decide +kernel
theorem test_fmulVV :
    after (exec (.fmulVV 1 2 3) (machine
      |>.setVL 1
      |> (withV · 2 [0x4002800000000000])
      |> (withV · 3 [0x4002C00000000000])))
      (fun t => t.elem 1 0) = some (0x4003C00000000000) := by decide +kernel
theorem test_addSV :
    after (exec (.addSV 1 2 3) (machine |>.setVL 2 |>.setS 2 10 |> (withV · 3 [1, 0xFFFFFFFFFFFFFFFF])))
      (fun t => (t.elem 1 0, t.elem 1 1)) = some ((11, 9)) := by decide +kernel
theorem test_addVV :
    after (exec (.addVV 1 2 3) (machine |>.setVL 2 |> (withV · 2 [1, 2]) |> (withV · 3 [10, 20])))
      (fun t => (t.elem 1 0, t.elem 1 1)) = some ((11, 22)) := by decide +kernel
theorem test_subSV :
    after (exec (.subSV 1 2 3) (machine |>.setVL 2 |>.setS 2 10 |> (withV · 3 [1, 11])))
      (fun t => (t.elem 1 0, t.elem 1 1)) = some ((9, 0xFFFFFFFFFFFFFFFF)) := by decide +kernel
theorem test_subVV :
    after (exec (.subVV 1 2 3) (machine |>.setVL 1 |> (withV · 2 [5]) |> (withV · 3 [7])))
      (fun t => t.elem 1 0) = some (0xFFFFFFFFFFFFFFFE) := by decide +kernel
theorem test_popcountV :
    after (exec (.popcountV 1 2) (machine |>.setVL 2 |> (withV · 2 [0xF0F0, 0xFFFFFFFFFFFFFFFF])))
      (fun t => (t.elem 1 0, t.elem 1 1)) = some ((8, 64)) := by decide +kernel
theorem test_parityV :
    after (exec (.parityV 1 2) (machine |>.setVL 2 |> (withV · 2 [7, 3])))
      (fun t => (t.elem 1 0, t.elem 1 1)) = some ((1, 0)) := by decide +kernel
theorem test_leadingZerosV :
    after (exec (.leadingZerosV 1 2) (machine |>.setVL 2 |> (withV · 2 [1, 0])))
      (fun t => (t.elem 1 0, t.elem 1 1)) = some ((63, 64)) := by decide +kernel
theorem test_faddSV :
    after (exec (.faddSV 1 2 3) (machine
      |>.setVL 1
      |>.setS 2 0x4001800000000000
      |> (withV · 3 [0x4001800000000000])))
      (fun t => t.elem 1 0) = some (0x4002800000000000) := by decide +kernel
theorem test_faddVV :
    after (exec (.faddVV 1 2 3) (machine
      |>.setVL 1
      |> (withV · 2 [0x4001800000000000])
      |> (withV · 3 [0x4001800000000000])))
      (fun t => t.elem 1 0) = some (0x4002800000000000) := by decide +kernel
theorem test_fsubSV :
    after (exec (.fsubSV 1 2 3) (machine
      |>.setVL 1
      |>.setS 2 0x4002800000000000
      |> (withV · 3 [0x4001800000000000])))
      (fun t => t.elem 1 0) = some (0x4001800000000000) := by decide +kernel
theorem test_fsubVV :
    after (exec (.fsubVV 1 2 3) (machine
      |>.setVL 1
      |> (withV · 2 [0x4001800000000000])
      |> (withV · 3 [0x4001800000000000])))
      (fun t => t.elem 1 0) = some (0) := by decide +kernel
theorem test_fixV :
    after (exec (.fixV 1 3) (machine |>.setVL 1 |> (withV · 3 [0x4003C00000000000])))
      (fun t => t.elem 1 0) = some (6) := by decide +kernel
theorem test_floatV :
    after (exec (.floatV 1 3) (machine |>.setVL 2 |> (withV · 3 [6, 0])))
      (fun t => (t.elem 1 0, t.elem 1 1)) = some ((0x4003C00000000000, 0)) := by decide +kernel
theorem test_iota :
    after (exec (.iota 1 2 3) (machine
      |>.setS 2 0xB000000000000000
      |>.setS 3 0x0000000700000002
      |> (withV · 1 [1, 1, 1, 1])))
      (fun t => (t.elem 1 0, t.elem 1 1, t.elem 1 2, t.elem 1 3)) = some ((0, 4, 6, 1)) := by decide +kernel
theorem test_iotaAlt :
    after (exec (.iotaAlt 1 2 3) (machine
      |>.setS 2 0xB000000000000000
      |>.setS 3 0x0000000700000002
      |> (withV · 1 [1, 1, 1, 1])))
      (fun t => (t.elem 1 0, t.elem 1 1, t.elem 1 2, t.elem 1 3)) = some ((0, 4, 6, 1)) := by decide +kernel

/-! ## Signature exponents of erring operations (40_numerics.md R155): the result word and that the run goes on -/

/-- 126 with an overflowed operand signals, so that it halts where the halt is enabled (R149, R155, inferred). -/
theorem test_recipIterS :
    after (exec (.recipIterS 1 2 3) (machine |>.setS 2 0x6000800000000000 |>.setEnFloatHalt true))
      (fun t => (t.st.idleMode, t.run)) = some (true, .idle) := by decide +kernel
/-- 127 with an underflowed exponent sum does not signal (R155, inferred), and its word goes to S_i alone. -/
theorem test_sqrtIterS :
    after (exec (.sqrtIterS 1 2 3) (machine |>.setS 2 7 |>.setEnFloatHalt true)) (fun t => (t.getS 2, t.run))
      = some (7, .running) := by decide +kernel
theorem test_recipS :
    after (exec (.recipS 1 2) machine) (fun t => floatExp (t.getS 1)) = some 0o60002 :=
  congrArg some (floatExp_forceExp 0o60002 _)
theorem test_recipS_halt :
    after (exec (.recipS 1 2) (machine |>.setEnFloatHalt true)) (fun t => (t.st.idleMode, t.run))
      = some (true, .idle) := by decide +kernel
theorem test_rsqrtS :
    after (exec (.rsqrtS 1 2) (machine |>.setS 2 0xC001800000000000)) (fun t => floatExp (t.getS 1))
      = some 0o60004 := congrArg some (floatExp_forceExp 0o60004 _)
/-- 156 with an overflowed element signals, so that it halts where the halt is enabled (R149, R155, inferred). -/
theorem test_recipIterVV :
    after (exec (.recipIterVV 1 2 3) (machine |>.setVL 1 |>.setEnFloatHalt true |> (withV · 2 [0x6000800000000000])))
      (fun t => (t.st.idleMode, t.run)) = some (true, .idle) := by decide +kernel
/-- 157 with underflowed exponent sums does not signal (R155, inferred). -/
theorem test_sqrtIterVV :
    after (exec (.sqrtIterVV 1 2 3) (machine |>.setVL 1 |>.setEnFloatHalt true |> (withV · 2 [7])))
      (fun t => (t.elem 2 0, t.run)) = some (7, .running) := by decide +kernel
/-- 126 of zero and its approximation, which errs, forces 60001 octal (R327, R155, inferred). -/
theorem test_recipIter_forced : floatExp (fRecipIter 0 (fRecip 0).1).1 = 0o60001 := by
  have h : iterationErr 0 (fRecip 0).1 = true := by
    rw [show (fRecip 0).1 = forceExp 0o60002 (Config.recipWord 0) from rfl]
    simp [iterationErr, isOverflowed]
  simp only [fRecipIter, if_true, iterationWord_err h]
/-- 127 in the algorithm of R152 for -1.0, whose approximation errs, forces 60001 octal (R328, R155, inferred). -/
theorem test_sqrtIter_forced :
    let a := (fRsqrt 0xC001800000000000).1
    floatExp (fRsqrtIter a (fMul 0xC001800000000000 a).1).1 = 0o60001 := by
  intro a
  have h : iterationErr a (fMul 0xC001800000000000 a).1 = true := by
    rw [show a = forceExp 0o60004 (Config.rsqrtWord 0xC001800000000000) from rfl]
    simp [iterationErr, isOverflowed]
  rw [fRsqrtIter_of_from rfl rfl]
  exact iterationWord_err h
/-- The coefficient product of the unnormalized operands 3 * 2^-48 and 5/8 is exact at lower exponents (R146). -/
theorem test_exactCoef : exactCoef (3 * 0xA00000000000) = some 0xF00000000000 := by decide +kernel
/-- An underflowed operand counts as zero (R139), whatever the exponent sum. -/
theorem test_fmul_underflowed : fMul 0x1FFF800000000000 0x5FFF800000000000 = (0, false) := by decide +kernel
/-- 1.0 + 2^-60 is inexact, but far from the overflow range: it does not err (R142, R155). -/
theorem test_fadd_inexact : (fAdd 0x4001800000000000 0x3FC5800000000000).2 = false := by decide +kernel
theorem test_recipV :
    after (exec (.recipV 1 3) (machine |>.setVL 1)) (fun t => floatExp (t.elem 1 0)) = some 0o60002 :=
  congrArg some (floatExp_forceExp 0o60002 _)
theorem test_rsqrtV :
    after (exec (.rsqrtV 1 3) (machine |>.setVL 1 |> (withV · 3 [0xC001800000000000]))) (fun t => floatExp (t.elem 1 0))
      = some 0o60004 := congrArg some (floatExp_forceExp 0o60004 _)
/-- -0.001 octal and +57.0 octal of R138 have these fields, and their sum is exact. -/
theorem test_fadd_mixed_signs :
    fAdd 0x4006BC0000000000 0xC001800000000000 = (0x4006B80000000000, false) := by decide +kernel

/-! ## Stops -/

theorem test_unspecified035 : faultOf (exec (.unspecified035 4) machine) = some .unspecifiedEncoding := by decide +kernel
theorem test_unspecified106Low : faultOf (exec (.unspecified106Low 1 2 2) machine) = some .unspecifiedEncoding := by
  decide +kernel
theorem test_unspecified106High : faultOf (exec (.unspecified106High 1 2 4) machine) = some .unspecifiedEncoding := by
  decide +kernel
theorem test_unspecified164Low : faultOf (exec (.unspecified164Low 1 2 2) machine) = some .unspecifiedEncoding := by
  decide +kernel
theorem test_unspecified164High : faultOf (exec (.unspecified164High 1 2 4) machine) = some .unspecifiedEncoding := by
  decide +kernel
theorem test_local_address : faultOf (exec (.loadSLocal 1 0x4000) machine) = some .localAddress := by decide +kernel
theorem test_unwritten_local : faultOf (exec (.loadSLocal 1 0) machine) = some .unwrittenLocal := by decide +kernel

/-! ## Steps -/

/-- The first step after reset with the word of 053100 placed where it is fetched runs 053 (operand parcels zero). -/
theorem test_first_step :
    after (step (State.reset.withFetchWord 16 0x5640)) (fun t => (t.getS 1, t.p, t.ibuf)) = some (0, 5, [0]) := by
  decide +kernel
/-- An instruction that straddles a word boundary: `a3 0x12345678,h` (R233) at parcel 0o102, the last but one of its word. -/
theorem test_step_straddles :
    after (step ((machine |>.jumpTo 0o102).placeParcels 0o102 [0x44C0, 0x1234, 0x5678])) (fun t => (t.getA 3, t.p))
      = some (0x12345678, 0o105) := by decide +kernel
theorem test_fetch_range : faultOf (step (machine |>.jumpTo 0o4000)) = some .fetchRange := by decide +kernel
theorem test_fetch_unwritten : faultOf (step machine) = some .unwrittenFetch := by decide +kernel
theorem test_fetch_stale :
    faultOf (step (machine.storeCommon 0o1020 0x7C007C007C007C00)) = some .staleInstruction := by decide +kernel
theorem test_idle_step : after (step State.reset) (fun t => (t.p, t.run)) = some (0, .idle) := by decide +kernel

/-! ## Hypotheses: for each statement that has any, a state and operands that meet them -/

/-- An observation of a next state shows that there is one. -/
theorem next_of_after {α : Type} {r : Result} {f : State → α} {v : α} (h : after r f = some v) :
    ∃ t, r = .next t ∧ f t = v := by
  cases r <;> simp_all [after]

theorem fault_of_faultOf {r : Result} {f : Fault} (h : faultOf r = some f) : r = .fault f := by
  cases r <;> simp_all [faultOf]

/-- The small machine with parcels at P. -/
def code (l : List Parcel) : State := machine.placeParcels 0o100 l

/-- A launch of a field of `la0 - ba0` words at parcel `p0`. -/
def launchAt (p0 ba0 la0 : Addr) : Launch := { p0 := p0, ba0 := ba0, la0 := la0, semPtr := 7, semBit := true }

theorem witness_DecodeEncode : Instr.wellFormed (.unspecified035 4) = true ∧
    Instr.wellFormed (.unspecified106Low 1 2 3) = true ∧ Instr.wellFormed (.unspecified164High 7 7 7) = true ∧
    Instr.wellFormed (.fullS 7 0xFFFFFFFFFFFFFFFF) = true := by decide +kernel

theorem witness_EncodeDecode : decode (0x289F :: [5]) = .ok (.moveSToA 2 3, [5]) := by decide +kernel

theorem witness_DecodeTotal : parcelCount 0x5640 ≤ [1, 2, 3, 4].length + 1 ∧
    [1, 2, 3].length + 1 < parcelCount 0x5640 := by decide +kernel

theorem witness_StepRunsDecoded : (code [0x2053]).run = .running ∧ (code [0x2053]).fieldOk = true ∧
    (code [0x2053]).fetch = .ok [0x2053] ∧ decode [0x2053] = .ok (.addA 1 2 3, []) := by decide +kernel

theorem witness_FetchReadsParcels :
    let s := (machine |>.jumpTo 0o102).placeParcels 0o102 [0x44C0, 0x1234, 0x5678]
    let w : Nat → Word := fun m => if m < 2 then 0x44C01234 else 0x5678000000000000
    3 = parcelCount ((w 0).extractLsb' (48 - 16 * (s.p.toNat % 4)) 16) ∧
    ∀ m, m < 3 → s.Holds ((s.p + BitVec.ofNat 32 m) >>> 2) (w m) ∧
      s.wordOf ((s.p + BitVec.ofNat 32 m) >>> 2) ∉ s.written := by
  unfold State.Holds State.Reaches State.InRange
  decide +kernel

/-- The parcels of the words 0 and 511 of the field lie in it, those of word 512 do not. -/
theorem witness_FetchFaults :
    (machine.run = .running ∧ machine.fieldOk = true) ∧
    ¬ (machine.jumpTo 0o4000).InRange ((0o4000 : Addr) >>> 2) ∧
    ¬ (machine.jumpTo 0xFFFFFFFF).InRange ((0xFFFFFFFF : Addr) >>> 2) ∧
    (let s := (machine.jumpTo 0o3777).storeCommon 1023 0
     s.InRange (s.p >>> 2) ∧ s.wordOf (s.p >>> 2) ∈ s.written) ∧
    (let s := machine.jumpTo 0
     s.InRange (s.p >>> 2) ∧ s.wordOf (s.p >>> 2) ∉ s.written ∧
       Memory.word? s.cm (s.wordOf (s.p >>> 2)) = none) := by
  unfold State.InRange
  decide +kernel

theorem witness_IdleOnlyCounts : State.reset.run = .idle := rfl

/-- The clock counts up to its last value. -/
theorem witness_ClockCounts :
    (∃ t, step State.reset = .next t) ∧ State.reset.rtc.toNat < 2 ^ 64 - 1 ∧
    (∃ t, step { State.reset with rtc := 0xFFFFFFFFFFFFFFFE } = .next t) ∧
    (0xFFFFFFFFFFFFFFFE : Word).toNat < 2 ^ 64 - 1 := ⟨⟨_, rfl⟩, by decide +kernel, ⟨_, rfl⟩, by decide +kernel⟩

theorem witness_LaunchStarts :
    State.reset.run = .idle ∧
    (∀ l, l ∈ [launchAt 3 0 1, launchAt 3 268435455 268435456] → l.ba0.toNat ≤ l.la0.toNat ∧
      l.la0.toNat ≤ Config.cmWords ∧ l.ba0.toNat + l.p0.toNat / 4 < l.la0.toNat) ∧
    (∀ l, l ∈ [launchAt 4 0 1, launchAt 0 1 0, launchAt 0 0 268435457] → ¬ (l.ba0.toNat ≤ l.la0.toNat ∧
      l.la0.toNat ≤ Config.cmWords ∧ l.ba0.toNat + l.p0.toNat / 4 < l.la0.toNat)) ∧
    machine.run = .running ∧
    (∀ s, s ∈ [{ machine with la := 511 }, { machine with la := 268435457 }] → s.run = .running ∧
      ¬ (s.ba.toNat ≤ s.la.toNat ∧ s.la.toNat ≤ Config.cmWords)) := by decide +kernel

/-- A machine about to store S1 meets the invariant. -/
theorem inv_code_store : (code [0x6E40, 0, 0o200]).Inv where
  localMemory := by unfold State.LocalMemoryOk; decide +kernel
  commonMemory := by unfold State.CommonMemoryOk; decide +kernel
  idleFlag := by unfold State.IdleFlagOk; decide +kernel
  buffer := by unfold State.BufferOk; decide +kernel
  written := by unfold State.WrittenOk; decide +kernel
  field := by unfold State.FieldOk; decide +kernel

theorem witness_StepKeepsInvariant : (code [0x6E40, 0, 0o200]).Inv ∧
    ∃ t, step (code [0x6E40, 0, 0o200]) = .next t ∧ t.written = [0o1200] :=
  ⟨inv_code_store, next_of_after (by decide +kernel)⟩

/-- The machine after an exit, its program still in Common Memory. -/
def stopped : State := { code [0x003F] with run := .idle, st := { Status.reset with exitMode := true, exitCode := 63 } }

theorem inv_stopped : stopped.Inv where
  localMemory := by unfold State.LocalMemoryOk; decide +kernel
  commonMemory := by unfold State.CommonMemoryOk; decide +kernel
  idleFlag := by unfold State.IdleFlagOk; decide +kernel
  buffer := by unfold State.BufferOk; decide +kernel
  written := by unfold State.WrittenOk; decide +kernel
  field := by unfold State.FieldOk; decide +kernel

theorem witness_LaunchKeepsInvariant : stopped.Inv ∧ (∃ t, stopped.launch (launchAt 3 0 1) = .next t) ∧
    (∃ t, stopped.hostWrite [] (.commonWord 0xFFFFFFF 7) = .next t) ∧
    (∃ t, stopped.hostWrite [] (.idleMode true) = .next t) ∧ HostWrite.commonWord 0xFFFFFFF 7 ≠ .idleMode false ∧
    HostWrite.idleMode true ≠ .idleMode false :=
  ⟨inv_stopped, ⟨_, rfl⟩, ⟨_, rfl⟩, ⟨_, rfl⟩, by decide, by decide⟩

/-- Words BA - 1, BA, LA - 1 and LA of a running machine, and a word of the field that the contract names. -/
theorem witness_ForegroundWrites :
    stopped.run = .idle ∧ machine.run = .running ∧ ¬ (HostWrite.a 3 7).IsCommon ∧
    (¬ (machine.ba.toNat ≤ (511 : BitVec 28).toNat ∧ (511 : BitVec 28).toNat < machine.la.toNat)) ∧
    (¬ (machine.ba.toNat ≤ (1024 : BitVec 28).toNat ∧ (1024 : BitVec 28).toNat < machine.la.toNat)) ∧
    (600 : BitVec 28).toNat ∈ [600] ∧
    (machine.ba.toNat ≤ (512 : BitVec 28).toNat ∧ (512 : BitVec 28).toNat < machine.la.toNat) ∧
    (machine.ba.toNat ≤ (1023 : BitVec 28).toNat ∧ (1023 : BitVec 28).toNat < machine.la.toNat) ∧
    (1023 : BitVec 28).toNat ∉ [600] ∧ HostWrite.commonWord 600 7 = .commonWord 600 7 :=
  ⟨rfl, rfl, id, by decide +kernel, by decide +kernel, by decide, by decide +kernel, by decide +kernel, by decide, rfl⟩

/-- The instruction executed, 006, can change the assigned Semaphore flag, and goes on. -/
theorem witness_StepKeepsAssignment :
    let s := (code [0x0C00]).setRangeErr.setFloatErr
    (∃ t, step s = .next t ∧ t.run = .running ∧ NoHalt s t) ∧ (1 : Fin 8).val ≠ s.st.semPtr.toNat ∧
      s.st.rangeErr = true ∧ s.st.floatErr = true := by
  obtain ⟨t, ht, hr⟩ := next_of_after (r := step (code [0x0C00]).setRangeErr.setFloatErr) (f := fun t => t.run)
    (v := RunState.running) (by decide +kernel)
  exact ⟨⟨t, ht, hr, fun _ => .inl hr⟩, by decide +kernel⟩

/-- An exit, a halt on a range error and a halt on a floating-point error. -/
theorem witness_PeriodEnds :
    ∀ s, s ∈ [code [0x003F], (code [0x6C40, 0, 512]).setEnRangeHalt true, (code [0xB450]).setEnFloatHalt true] →
      s.run = .running ∧ ∃ t, step s = .next t ∧ t.run = .idle := by
  intro s h
  simp only [List.mem_cons, List.not_mem_nil, or_false] at h
  rcases h with rfl | rfl | rfl
  · exact ⟨rfl, next_of_after (f := fun t => t.run) (by decide +kernel)⟩
  · exact ⟨rfl, next_of_after (f := fun t => t.run) (by decide +kernel)⟩
  · exact ⟨rfl, next_of_after (f := fun t => t.run) (by decide +kernel)⟩

/-- The exit code of a run that has exited. -/
def codeOf : RunEnd → Option Short
  | .exited t => some t.st.exitCode
  | _ => none

/-- The floating-point error bit of a run that has halted. -/
def floatErrOf : RunEnd → Option Bool
  | .halted _ b => some b
  | _ => none

theorem exited_of_codeOf {r : RunEnd} {c : Short} (h : codeOf r = some c) : r.Ended ∧ ∃ t, r = .exited t := by
  cases r <;> simp_all [codeOf, RunEnd.Ended]

theorem halted_of_floatErrOf {r : RunEnd} {b : Bool} (h : floatErrOf r = some b) : r.Ended ∧ ∃ a b, r = .halted a b := by
  cases r <;> simp_all [floatErrOf, RunEnd.Ended]

/-- A run that exits in its second step, after a pass, and one that halts on a floating-point error. -/
theorem witness_RunsEnd :
    let s := code [0x7E00, 0x003F]
    let u := (code [0xB450]).setEnFloatHalt true
    s.Started ∧ ((runFor 2 s).Ended ∧ ∃ t, runFor 2 s = .exited t) ∧
    u.Started ∧ ((runFor 1 u).Ended ∧ ∃ a b, runFor 1 u = .halted a b) :=
  ⟨by unfold State.Started; decide +kernel, exited_of_codeOf (c := 63) (by decide +kernel),
    by unfold State.Started; decide +kernel, halted_of_floatErrOf (b := true) (by decide +kernel)⟩

/-- A store, and words BA - 1 and LA, at their last and first byte. -/
theorem witness_StepWritesOnlyField :
    (∃ t, step (code [0x6E40, 0, 0o200]) = .next t ∧ NoHalt (code [0x6E40, 0, 0o200]) t) ∧
    ¬ (machine.ba.toNat ≤ 511 ∧ 511 < machine.la.toNat) ∧ InWord 511 4095 ∧
    ¬ (machine.ba.toNat ≤ 1024 ∧ 1024 < machine.la.toNat) ∧ InWord 1024 8192 :=
  ⟨(next_of_after (r := step (code [0x6E40, 0, 0o200])) (f := fun t => t.run) (v := RunState.running)
      (by decide +kernel)).imp fun _ h => ⟨h.1, fun _ => .inl h.2⟩, by unfold InWord; decide +kernel⟩

/-- A machine that steps, one that faults and one whose step is refused, each with words BA - 1 and LA written. -/
theorem witness_StepReadsOnlyField :
    (∀ s, s ∈ [code [0x2053], machine, { machine with la := 0 }] →
      ∀ a, s.ba.toNat ≤ a → a < s.la.toNat →
        Memory.word? (withCommon s [(511, 1), (1024, 2)]).cm a = Memory.word? s.cm a) ∧
    (∃ t, step (code [0x2053]) = .next t ∧ t.p = 0o101) ∧ step machine = .fault .unwrittenFetch ∧
    step { machine with la := 0 } = .refused .launchPremise := by
  refine ⟨?_, next_of_after (by decide +kernel), fault_of_faultOf (by decide +kernel), rfl⟩
  intro s h
  simp only [List.mem_cons, List.not_mem_nil, or_false] at h
  rcases h with rfl | rfl | rfl <;> decide +kernel

theorem witness_LocalMemoryLaws : (0 : Nat) ≤ 16383 ∧ (16383 : Nat) ≤ 16383 ∧ (16383 : Nat) < 16384 := by decide

theorem witness_CommonMemoryLaws : machine.Reaches 0 ∧ machine.Reaches 511 ∧ ¬ machine.InRange 512 ∧
    ¬ machine.InRange 0xFFFFFFFF := by
  unfold State.Reaches State.InRange
  decide +kernel

theorem witness_Exits : ((Instr.exit 63 : Instr) = .exit 63 ∨ (Instr.exit 63 : Instr) = .exitAlt 63) ∧
    ((Instr.exitAlt 0 : Instr) = .exit 0 ∨ (Instr.exitAlt 0 : Instr) = .exitAlt 0) := by decide

theorem witness_SemaphoreJumps : (0 : Fin 8).val = machine.st.semPtr.toNat ∧
    (7 : Fin 8).val = { machine with st := { machine.st with semPtr := 7 } }.st.semPtr.toNat := by decide +kernel

theorem witness_SemaphoreSetClear : (0 : Fin 8).val = machine.st.semPtr.toNat ∧
    (7 : Fin 8).val = { machine with st := { machine.st with semPtr := 7 } }.st.semPtr.toNat := by decide +kernel

/-- A and S registers on both sides of each test. -/
theorem witness_BranchesOnZeroAndSign :
    machine.getA 3 = 0 ∧ (machine.setA 3 0x80000000).getA 3 ≠ 0 ∧
    ((machine.setA 3 0x80000000).getA 3).getLsbD 31 = true ∧ ¬ ((machine.setA 3 0x7FFFFFFF).getA 3).getLsbD 31 = true ∧
    machine.getS 3 = 0 ∧ (machine.setS 3 1).getS 3 ≠ 0 ∧
    ((machine.setS 3 0x8000000000000000).getS 3).getLsbD 63 = true ∧
    ¬ ((machine.setS 3 0x7FFFFFFFFFFFFFFF).getS 3).getLsbD 63 = true := by decide +kernel

theorem witness_BranchesOnPositive :
    (machine.getA 3).getLsbD 31 = false ∧ ¬ ((machine.setA 3 0x80000000).getA 3).getLsbD 31 = false ∧
    (machine.getS 3).getLsbD 63 = false ∧ ¬ ((machine.setS 3 0x8000000000000000).getS 3).getLsbD 63 = false := by
  decide +kernel

theorem witness_VectorMasks : ∃ (k : Reg) (x : Instr) (test : Word → Bool),
    (x = .maskZero k ∧ test = fun w => decide (w = 0)) ∨ (x = .maskNonzero k ∧ test = fun w => decide (w ≠ 0)) ∨
    (x = .maskPositive k ∧ test = fun w => !w.getLsbD 63) ∨ (x = .maskNegative k ∧ test = fun w => w.getLsbD 63) :=
  ⟨3, .maskNegative 3, fun w => w.getLsbD 63, .inr (.inr (.inr ⟨rfl, rfl⟩))⟩

theorem witness_UnspecifiedEncodingsStop :
    (opcodeOf 0x3A04 = 0o035 ∧ 4 ≤ (fieldK 0x3A04).toNat) ∧ (opcodeOf 0x3A07 = 0o035 ∧ 4 ≤ (fieldK 0x3A07).toNat) ∧
    (opcodeOf 0x8C52 = 0o106 ∧ 2 ≤ (fieldK 0x8C52).toNat) ∧ (opcodeOf 0x8C57 = 0o106 ∧ 2 ≤ (fieldK 0x8C57).toNat) ∧
    (opcodeOf 0xE852 = 0o164 ∧ 2 ≤ (fieldK 0xE852).toNat) ∧ (opcodeOf 0xE857 = 0o164 ∧ 2 ≤ (fieldK 0xE857).toNat) := by
  decide +kernel

theorem witness_LocalLoads :
    let s := withLocal (machine.setA 3 16383) [(16383, 7)]
    (16383 : Parcel).toNat ≤ 16383 ∧ Memory.word? s.lm (16383 : Parcel).toNat = some 7 ∧
    (s.getA 3).toNat ≤ 16383 ∧ Memory.word? s.lm (s.getA 3).toNat = some 7 ∧
    16383 < (16384 : Parcel).toNat ∧ 16383 < ((machine.setA 3 16384).getA 3).toNat ∧
    Memory.word? s.lm (16382 : Parcel).toNat = none ∧ Memory.word? s.lm ((s.setA 3 0).getA 3).toNat = none := by
  decide +kernel

theorem witness_LocalStores :
    (16383 : Parcel).toNat ≤ 16383 ∧ ((machine.setA 3 16383).getA 3).toNat ≤ 16383 ∧
    16383 < (16384 : Parcel).toNat ∧ 16383 < ((machine.setA 3 16384).getA 3).toNat := by decide +kernel

/-- Relative addresses 0 and 511 are the ends of the field; 512 lies outside it. The address of 060 may wrap. -/
theorem witness_CommonLoads :
    let s := withCommon (machine |>.setA 2 0xFFFFFFFF |>.setA 3 512) [(512, 5), (1023, 7)]
    s.Holds 0 5 ∧ s.Holds (s.getA 2 + s.getA 3) 7 ∧ ¬ s.InRange (s.getA 3) ∧ s.st.enRangeHalt = false ∧
    ¬ (s.setEnRangeHalt true).InRange (s.getA 3 + 0) ∧ (s.setEnRangeHalt true).st.enRangeHalt = true ∧
    (s.Reaches 1 ∧ Memory.word? s.cm (s.wordOf 1) = none) := by
  unfold State.Holds State.Reaches State.InRange
  decide +kernel

theorem witness_CommonStores :
    let s := machine |>.setA 2 0xFFFFFFFF |>.setA 3 512
    s.Reaches 0 ∧ s.Reaches (s.getA 2 + s.getA 3) ∧ ¬ s.InRange (s.getA 3) ∧ s.st.enRangeHalt = false ∧
    ¬ (s.setEnRangeHalt true).InRange (s.getA 3 + 0) ∧ (s.setEnRangeHalt true).st.enRangeHalt = true := by
  unfold State.Reaches State.InRange
  decide +kernel

/-- The elements 0 and 1 of a stride of 511 lie in the field; of a stride of 512, only element 0. The last case gathers
through the destination, whose indexes read as 0. -/
theorem witness_VectorLoads :
    let s := withCommon (machine |>.setVL 2 |>.setA 3 511) [(512, 5), (1023, 7)]
    let u := s.setA 3 512
    let rel (r : State) (e : Nat) : Addr := r.getA 2 + BitVec.ofNat 32 e * r.getA 3
    let gat (r : State) (e : Nat) : Addr := r.getA 3 + if (2 : Reg) = 1 then 0 else BitVec.ofNat 32 (r.elem 2 e).toNat
    let own (r : State) (e : Nat) : Addr := r.getA 3 + if (1 : Reg) = 1 then 0 else BitVec.ofNat 32 (r.elem 1 e).toNat
    (∀ e, e < s.vlen → s.Holds (rel s e) (if e = 0 then 5 else 7) ∧ s.InRange (rel s e)) ∧
    (s.Holds (gat s 0) 7 ∧ s.Holds (gat s 1) 7 ∧ s.Holds (own s 1) 7) ∧
    (u.Holds (rel u 0) 5 ∧ ¬ u.InRange (rel u 1) ∧ u.st.enRangeHalt = false) ∧
    (∀ e, e < u.vlen → ¬ u.InRange (gat u e)) ∧
    (u.setEnRangeHalt true).st.enRangeHalt = true ∧ 1 < (u.setEnRangeHalt true).vlen ∧
    ¬ (u.setEnRangeHalt true).InRange (rel (u.setEnRangeHalt true) 1) ∧
    (let v := u.setA 2 1
     (∀ e, e < v.vlen → ¬ v.InRange (rel v e) ∨ v.Reaches (rel v e)) ∧ 0 < v.vlen ∧ v.Reaches (rel v 0) ∧
       Memory.word? v.cm (v.wordOf (rel v 0)) = none) := by
  unfold State.Holds State.Reaches State.InRange
  decide +kernel

theorem witness_VectorStores :
    let s := machine |>.setVL 2 |>.setA 3 511
    let u := s.setA 3 512
    let rel (r : State) (e : Nat) : Addr := r.getA 2 + BitVec.ofNat 32 e * r.getA 3
    let sca (r : State) (e : Nat) : Addr := r.getA 3 + BitVec.ofNat 32 (r.elem 2 e).toNat
    (∀ e, e < s.vlen → s.Reaches (rel s e) ∧ s.Reaches (sca s e)) ∧
    (∀ d, d < s.vlen → 1 < d → sca s d ≠ sca s 1) ∧
    (u.Reaches (rel u 0) ∧ ¬ u.InRange (rel u 1) ∧ u.st.enRangeHalt = false) ∧
    (∀ e, e < u.vlen → ¬ u.InRange (sca u e)) ∧
    (u.setEnRangeHalt true).st.enRangeHalt = true ∧ 1 < (u.setEnRangeHalt true).vlen ∧
    ¬ (u.setEnRangeHalt true).InRange (rel (u.setEnRangeHalt true) 1) := by
  unfold State.Reaches State.InRange
  decide +kernel

theorem witness_LocalVectors :
    let s := withLocal (machine |>.setVL 2 |>.setA 3 16382) [(16382, 5), (16383, 7)]
    ((s.getA 3).toNat + s.vlen ≤ 16384 ∧
      ∀ e, e < s.vlen → Memory.word? s.lm ((s.getA 3).toNat + e) = some (if e = 0 then 5 else 7)) ∧
    16384 < ((s.setA 3 16383).getA 3).toNat + (s.setA 3 16383).vlen ∧
    (∀ n, n < 1 → (Memory.word? s.lm (16383 + n)).isSome = true) ∧ 16384 ≤ ((s.setA 3 16384).getA 3).toNat ∧
    (1 < s.vlen ∧ ((s.setA 3 16380).getA 3).toNat + 1 ≤ 16383 ∧
      Memory.word? s.lm (((s.setA 3 16380).getA 3).toNat + 1) = none) := by
  decide +kernel

theorem witness_PassesDoNothing :
    Instr.pass137 ∈ [Instr.pass, .passAlt, .pass134, .pass135, .pass136, .pass137] := by decide

theorem witness_ScalarLogical : ∃ (i j k : Reg) (x : Instr) (op : Bool → Bool → Bool),
    (x = .andS i j k ∧ op = fun a b => a && b) ∨ (x = .andNotS i j k ∧ op = fun a b => a && !b) ∨
    (x = .xorS i j k ∧ op = fun a b => a ^^ b) ∨ (x = .orS i j k ∧ op = fun a b => a || b) :=
  ⟨1, 2, 3, .andNotS 1 2 3, fun a b => a && !b, .inr (.inl ⟨rfl, rfl⟩)⟩

theorem witness_ScalarIntegers :
    machine.getS 2 = 0 ∧
    (let s := machine.setS 2 0x8000000000000000
     (s.getS 2).getLsbD (63 - 0) = true ∧ ∀ m, m < 0 → (s.getS 2).getLsbD (63 - m) = false) ∧
    (let s := machine.setS 2 1
     (s.getS 2).getLsbD (63 - 63) = true ∧ ∀ m, m < 63 → (s.getS 2).getLsbD (63 - m) = false) := by decide +kernel

theorem witness_ScalarShifts :
    ∀ n, n ∈ [0, 1, 63, 64, 65, 127, 128, 0xFFFFFFFF] → n = ((machine.setA 3 (BitVec.ofNat 32 n)).getA 3).toNat := by
  decide +kernel

theorem witness_ReadClock : (code [0x9A40]).run = .running ∧ (code [0x9A40]).fieldOk = true ∧
    (code [0x9A40]).fetch = .ok [0x9A40] ∧ decode [0x9A40] = .ok (.readRT 1, []) ∧
    ∃ t, step (code [0x9A40]) = .next t ∧ t.p = 0o101 :=
  ⟨by decide +kernel, by decide +kernel, by decide +kernel, by decide +kernel, next_of_after (by decide +kernel)⟩

/-- Operands of each function with an error and without: 0x6000800000000000 is overflowed, 1.0 and 0 are not. -/
theorem witness_FloatScalars :
    ((fAdd 0 0).2 = false ∧ (fSub 0 0).2 = false ∧ (fFix 0).2 = false ∧ (fMul 0 0).2 = false ∧
      (fRecipIter 0 0).2 = false ∧ (fRsqrtIter 0 0).2 = false ∧ (fRsqrt 0).2 = false ∧
      (fRecip 0x4001800000000000).2 = false) ∧
    ((fAdd 0 0x6000800000000000).2 = true ∧ (fSub 0x6000800000000000 0).2 = true ∧
      (fFix 0x6000800000000000).2 = true ∧ (fMul 0x5FFF800000000000 0x4001800000000000).2 = true ∧
      (fRecipIter 0 0x6000800000000000).2 = true ∧ (fRsqrtIter 0x6000800000000000 0).2 = true ∧
      (fRsqrt 0x8000000000000000).2 = true ∧ (fRecip 0).2 = true) ∧
    machine.st.enFloatHalt = false ∧ (machine.setEnFloatHalt true).st.enFloatHalt = true := by decide +kernel

/-- V2 of the small machine holds zeros. -/
theorem witness_VectorSourceIsDestination :
    Instr.gatherV 1 1 3 ∈ [Instr.gatherV 1 1 3] ∧ Instr.xorVV 1 1 1 ∈ [Instr.addVV 1 1 1, .xorVV 1 1 1] ∧
    (2 : Reg) ≠ 1 ∧ (∀ e, e < 64 → (withV machine 1 [7]).elem 2 e = 0) := by decide +kernel

theorem witness_SquareRootSequence : machine.st.enFloatHalt = false := rfl

theorem witness_VectorShifts : ∃ v : Nat → Word, (0xFFFFFFFF = ((machine.setA 3 0xFFFFFFFF).getA 3).toNat) ∧
    v = fun e => (if (1 : Reg) = 1 then 0 else machine.elem 1 e) := ⟨_, by decide +kernel, rfl⟩

theorem witness_VectorDoubleShifts : ∃ v : Nat → Word, (128 = ((machine.setA 3 128).getA 3).toNat) ∧
    v = fun e => (if (2 : Reg) = 1 then 0 else machine.elem 2 e) := ⟨_, by decide +kernel, rfl⟩

theorem witness_VectorIntegers : ∃ a b : Nat → Word, (a = fun e => (if (2 : Reg) = 1 then 0 else machine.elem 2 e)) ∧
    b = fun e => (if (1 : Reg) = 1 then 0 else machine.elem 1 e) := ⟨_, _, rfl, rfl⟩

/-- Element 1 of two errs in the first machine, none in the second. -/
theorem witness_FloatVectors :
    let s := withV (machine |>.setVL 2 |>.setEnFloatHalt true) 3 [0x4001800000000000, 0x6000800000000000]
    let u := withV (machine |>.setVL 2) 3 [0x4001800000000000, 0x4001800000000000]
    (∃ a b : Nat → Word, (a = fun e => (if (2 : Reg) = 1 then 0 else s.elem 2 e)) ∧
      b = fun e => (if (3 : Reg) = 1 then 0 else s.elem 3 e)) ∧
    (1 < s.vlen ∧ (fAdd (s.elem 2 1) (s.elem 3 1)).2 = true ∧ (fRecip (s.elem 3 1)).2 = true) ∧
    s.st.enFloatHalt = true ∧ u.st.enFloatHalt = false ∧
    ∀ e, e < u.vlen → (fAdd (u.elem 2 e) (u.elem 3 e)).2 = false ∧ (fRecip (u.elem 3 e)).2 = false :=
  ⟨⟨_, _, rfl, rfl⟩, by decide +kernel, by decide +kernel, by decide +kernel, by decide +kernel⟩

/-- Elements 0 and 63 are selected; the second multiple is below 2^31. -/
theorem witness_CompressedIota :
    let s := machine |>.setS 2 0x8000000000000001 |>.setS 3 0xFFFFFFFF00000005
    ∃ (ones : Nat → Nat) (d : Nat), ((Instr.iotaAlt 1 2 3) = .iota 1 2 3 ∨ (Instr.iotaAlt 1 2 3) = .iotaAlt 1 2 3) ∧
      (ones = fun n => ((List.range n).filter fun t => (s.getS 2).getLsbD (63 - t)).length) ∧
      d = (s.getS 3).toNat % 2 ^ 32 ∧ (s.getS 2).getLsbD (63 - 0) = true ∧ (s.getS 2).getLsbD (63 - 63) = true ∧
      63 * d < 2 ^ 31 := ⟨_, _, by decide +kernel, rfl, rfl, by decide +kernel, by decide +kernel, by decide +kernel⟩

/-- Exponents at the ends of the ranges: 57777 octal does not overflow, 60000 octal does. -/
theorem witness_FloatSums :
    isOverflowed 0x6000000000000000 = true ∧ isOverflowed 0x5FFFFFFFFFFFFFFF = false ∧ isOverflowed 0 = false ∧
    (floatExp 0x5FFEFFFFFFFFFFFF < 0o57777 ∧ ¬ floatExp 0x5FFF000000000000 < 0o57777) ∧
    isInRange 0x2000000000000001 = true ∧ floatCoef 0x2000000000000001 ≠ 0 := by decide +kernel

/-- 1.0 + 1.0 = 2.0, and 1.0 - 1.0 = 0. -/
theorem witness_FloatSumExact :
    isOverflowed 0x4001800000000000 = false ∧ isOverflowed 0xC001800000000000 = false ∧
    NoBitLost (flushUnderflow 0x4001800000000000) (flushUnderflow 0x4001800000000000) ∧
    NoBitLost (flushUnderflow 0x4001800000000000) (flushUnderflow 0xC001800000000000) ∧
    NoBitLost (flushUnderflow 0xC001800000000000) (flushUnderflow 0x4001800000000000) ∧
    isInRange 0x4002800000000000 = true ∧ isNormalized 0x4002800000000000 = true ∧
    floatValue 0x4002800000000000 = operandValue 0x4001800000000000 + operandValue 0x4001800000000000 ∧
    operandValue 0x4001800000000000 + operandValue 0xC001800000000000 = 0 := by
  unfold NoBitLost operandValue floatValue
  decide +kernel

/-- 1.0 * 1.0 = 1.0; 3.0 * 5/8 = 15/8 unnormalized; exponent sums at both ends of the range. -/
theorem witness_FloatProducts :
    (isOverflowed 0x6000000000000000 = true ∧ 0o60000 + 0o40000 ≤ floatExp 0x5FFF000000000000 + floatExp 0x4001000000000000) ∧
    floatExp 0x8000000000000001 = 0 ∧
    (¬ (floatExp 0 = 0 ∧ floatExp 0x5FFF000000000000 = 0) ∧
      floatExp 0 + floatExp 0x5FFF000000000000 < 0o20000 + 0o40000) ∧
    (isUnderflowed 0x1FFFFFFFFFFFFFFF = true ∧ isOverflowed 0x5FFF800000000000 = false ∧
      0o20000 + 0o40000 ≤ floatExp 0x1FFFFFFFFFFFFFFF + floatExp 0x5FFF800000000000) ∧
    (isInRange 0x4030000000000003 = true ∧ isInRange 0x4000A00000000000 = true ∧ isInRange 0x4001F00000000000 = true ∧
      floatValue 0x4001F00000000000 = floatValue 0x4030000000000003 * floatValue 0x4000A00000000000 ∧
      floatCoef 0x4030000000000003 * floatCoef 0x4000A00000000000 % 2 ^ 40 = 0) ∧
    isInRange 0x4001800000000000 = true ∧ isNormalized 0x4001800000000000 = true ∧
    0o20000 + 0o40000 ≤ floatExp 0x4001800000000000 + floatExp 0x4001800000000000 ∧
    floatExp 0x4001800000000000 + floatExp 0x4001800000000000 < 0o60000 + 0o40000 ∧
    floatValue 0x4001800000000000 = floatValue 0x4001800000000000 * floatValue 0x4001800000000000 := by
  unfold floatValue
  decide +kernel

theorem witness_FloatApproximations :
    (fRecip 0x6000000000000000).2 = true ∧ (fRecip 0x1FFF000000000000).2 = true ∧
    (fRsqrt 0x8000000000000000).2 = true ∧ floatExp 0x0003000000000000 ≤ 3 ∧
    (fRecipIter 0x5FFF000000000000 0x4001000000000000).2 = true ∧
    (fRsqrtIter 0x5FFF000000000000 0x4001000000000000).2 = true ∧
    (floatSign 0x0003FFFFFFFFFFFF = false ∧ floatExp 0x0003FFFFFFFFFFFF ≤ 3) ∧
    (fRecip 0).2 = true ∧ (∃ b, b = (fRecip 0).1) ∧ (∃ b, b = (fRecip 0x4001800000000000).1) ∧
    ∃ a b, a = (fRsqrt 0x8000000000000000).1 ∧ b = (fMul 0x8000000000000000 a).1 :=
  ⟨by decide +kernel, by decide +kernel, by decide +kernel, by decide +kernel, by decide +kernel, by decide +kernel,
    by decide +kernel, by decide +kernel, ⟨_, rfl⟩, ⟨_, rfl⟩, _, _, rfl, rfl⟩

/-- 1.0, an underflowed and an overflowed word, 2^48, 1.5, and the ends of the integer range. -/
theorem witness_FloatConversions :
    (isInRange 0x4001800000000000 = true ∧ floatValue 0x4001800000000000 = (1 : Int) ∧ |(1 : Int)| < 2 ^ 47) ∧
    isUnderflowed 0x1FFF800000000000 = true ∧ isOverflowed 0x6000800000000000 = true ∧
    (isInRange 0x4031800000000000 = true ∧ 2 ^ 48 ≤ |floatValue 0x4031800000000000|) ∧
    (isInRange 0x4001C00000000000 = true ∧ ((1 : Int) : Rat) < floatValue 0x4001C00000000000 ∧
      floatValue 0x4001C00000000000 < ((1 + 1 : Int) : Rat)) ∧
    -2 ^ 47 ≤ (0xFFFF800000000000 : Word).toInt ∧ (0xFFFF800000000000 : Word).toInt < 2 ^ 47 ∧
    (0x00007FFFFFFFFFFF : Word).toInt < 2 ^ 47 := by
  unfold floatValue
  decide +kernel

end Sys2Proof.Tests
end

/-! # Proofs: the step of a running processor (00_scope.md R13) -/

namespace Sys2Proof.Machine

/-- The branch of `step` that executes: run state and field premise admit the fetch, whose parcels are decoded; the
instruction runs after the clock and the buffer (entries 41, 18). -/
theorem step_of_decode {s : State} {l rest : List Parcel} {i : Instr} (hrun : s.run = .running)
    (hfield : s.fieldOk = true) (hfetch : s.fetch = .ok l) (hdecode : decode l = .ok (i, rest)) :
    step s = exec i (s.tick.fill l.length) := by
  unfold step
  simp only [hrun, if_pos hfield, hfetch, hdecode]

/-- Settles O5: the hypotheses select the one branch of `step` that executes. -/
theorem stepRunsDecoded : Obligations.StepRunsDecoded := by
  intro s l rest i hrun hfield hfetch hdecode
  exact step_of_decode hrun hfield hfetch hdecode

end Sys2Proof.Machine

/-! # Proofs: what the updates of the state leave alone, and when an instruction completes

The frames of the single updates, composed by `Frame.trans`; then one rule for each shape of completion: it suffices
to name the next state that `exec` answers. -/

namespace Sys2Proof.Machine

/-! ## Frames -/

theorem Piece.same_trans {s t u : State} {q : Piece} (hst : Piece.same s t q) (htu : Piece.same t u q) :
    Piece.same s u q := by
  cases q <;> exact Eq.trans htu hst

/-- Two changes in a row touch what either of them touches. -/
theorem Frame.trans {s t u : State} {A B : Piece → Prop} (hst : Frame s t A) (htu : Frame t u B) :
    Frame s u fun q => A q ∨ B q :=
  fun q hq => Piece.same_trans (hst q fun hA => hq (.inl hA)) (htu q fun hB => hq (.inr hB))

theorem Frame.mono {s t : State} {A B : Piece → Prop} (h : Frame s t A) (hAB : ∀ q, A q → B q) : Frame s t B :=
  fun q hq => h q fun hA => hq (hAB q hA)

theorem Frame.refl (s : State) (A : Piece → Prop) : Frame s s A := by
  intro q _
  cases q <;> exact rfl

theorem frame_setA (s : State) (i : Reg) (v : Addr) : Frame s (s.setA i v) (· = .a i) := by
  intro q hq
  cases q with
  | a r => exact s.getA_setA_ne v fun h => hq (h ▸ rfl)
  | _ => exact rfl

theorem frame_setS (s : State) (i : Reg) (v : Word) : Frame s (s.setS i v) (· = .s i) := by
  intro q hq
  cases q with
  | s r => exact s.getS_setS_ne v fun h => hq (h ▸ rfl)
  | _ => exact rfl

theorem frame_setV (s : State) (i : Reg) (n : Nat) (f : Nat → Word) :
    Frame s (s.setV i n f) fun q => ∃ e, e < n ∧ q = .v i e := by
  intro q hq
  cases q with
  | v r e =>
    by_cases hr : r = i
    · subst hr
      exact s.elem_setV_ge r f (Nat.le_of_not_lt fun he => hq ⟨e, he, rfl⟩)
    · exact s.elem_setV_ne n f e hr
  | _ => exact rfl

theorem frame_advance (s : State) (n : Nat) : Frame s (s.advance n) (· = .p) := by
  intro q hq
  cases q with
  | p => exact absurd rfl hq
  | _ => exact rfl

theorem frame_setRangeErr (s : State) : Frame s s.setRangeErr (· = .rangeErr) := by
  intro q hq
  cases q with
  | rangeErr => exact absurd rfl hq
  | _ => exact rfl

theorem frame_tick (s : State) : Frame s s.tick fun q => q = .rtc ∨ q = .freeIndex := by
  intro q hq
  cases q with
  | rtc => exact absurd (.inl rfl) hq
  | freeIndex => exact absurd (.inr rfl) hq
  | _ => exact rfl

/-- A store to Local Memory changes the bytes of its word and nothing else (20_memory.md R62). -/
theorem frame_storeLocal (s : State) (a : Nat) (v : Word) :
    Frame s (s.storeLocal a v) fun q => ∃ b, InWord a b ∧ q = .localByte b := by
  intro q hq
  cases q with
  | localByte x =>
    exact (Memory.byte?_writeWord s.lm a v x).trans (if_neg fun h => hq ⟨x, h, rfl⟩)
  | _ => exact rfl

/-! ## Completion -/

theorem deliversA_of_exec {x : Instr} {s : State} {i : Reg} {v : Addr} {n : Nat}
    (h : exec x s = .next ((s.setA i v).advance n)) : DeliversA x s i v n :=
  ⟨_, h, ((frame_setA s i v).trans (frame_advance _ n)).mono fun _ => Or.symm, s.getA_setA_same i v, rfl⟩

theorem deliversS_of_exec {x : Instr} {s : State} {i : Reg} {v : Word} {n : Nat}
    (h : exec x s = .next ((s.setS i v).advance n)) : DeliversS x s i v n :=
  ⟨_, h, ((frame_setS s i v).trans (frame_advance _ n)).mono fun _ => Or.symm, s.getS_setS_same i v, rfl⟩

/-- Only the values of the elements below the count matter. -/
theorem deliversV_of_exec {x : Instr} {s : State} {i : Reg} {n : Nat} {f g : Nat → Word} (hn : n ≤ 64)
    (h : exec x s = .next ((s.setV i n f).advance 1)) (hfg : ∀ e, e < n → f e = g e) : DeliversV x s i n g :=
  ⟨_, h, ((frame_setV s i n f).trans (frame_advance _ 1)).mono fun _ => Or.symm,
    fun e he => (s.elem_setV_lt i f he hn).trans (hfg e he), rfl⟩

/-! ## Range errors (60_exceptions.md R422) -/

/-- Where the halt is disabled, or nothing is signalled, the signal of a range error touches the error bit only. -/
theorem frame_signal_rangeError {s : State} {b : Bool} (h : b = true → s.st.enRangeHalt = false) :
    Frame s (s.signal .rangeError b) (· = .rangeErr) := by
  cases b with
  | false => exact .refl s _
  | true =>
    rw [State.signal_true, State.raise_rangeError_off (h rfl)]
    exact frame_setRangeErr s

theorem rangeErr_signal_rangeError {s : State} {b : Bool} (h : b = true → s.st.enRangeHalt = false) :
    (s.signal .rangeError b).st.rangeErr = true ↔ s.st.rangeErr = true ∨ b = true := by
  cases b with
  | false => simp
  | true => simp [State.raise_rangeError_off (h rfl)]

/-- Where the halt is enabled, an instruction that ends in a range error halts the processor. -/
theorem halts_of_rangeError {x : Instr} {s u : State} (h : exec x s = .next (u.raise .rangeError))
    (hst : u.st = s.st) (hen : s.st.enRangeHalt = true) : Halts x s fun t => t.st.rangeErr = true := by
  obtain ⟨hrun, hidle, hmode, hcode, -, herr, -⟩ := u.setRangeErr.halt_status
  rw [State.raise_rangeError_on (hst ▸ hen)] at h
  exact ⟨_, h, hrun, hidle, hmode.trans (by simp [hst]), hcode.trans (by simp [hst]), herr (by simp)⟩

end Sys2Proof.Machine

/-! # Proofs: what every step keeps (10_state.md)

The invariant, the clock and the assignment of the processor: each is shown for the work of an instruction (`Works`),
for the events, and so for every step by `exec_effect` and `step_next`. -/

namespace Sys2Proof.Machine

/-! ## Steps -/

/-- What an instruction other than an exit does: its work, then perhaps an error bit, then perhaps a halt. -/
theorem Effect.parts {s t : State} (h : Effect s t) :
    ∃ u v, Works s u ∧ (v = u ∨ v = u.setRangeErr ∨ v = u.setFloatErr) ∧ (t = v ∨ t = v.halt) := by
  cases h with
  | work hw => exact ⟨t, t, hw, .inl rfl, .inl rfl⟩
  | @rangeError u hw _ ht =>
    refine ⟨u, _, hw, .inr (.inl rfl), ?_⟩
    cases hen : u.st.enRangeHalt with
    | false => exact .inl (ht.trans (State.raise_rangeError_off hen))
    | true => exact .inr (ht.trans (State.raise_rangeError_on hen))
  | @floatError u hw _ ht =>
    cases hen : u.st.enFloatHalt with
    | false => exact ⟨u, u, hw, .inl rfl, .inl (ht.trans (State.raise_floatError_off hen))⟩
    | true => exact ⟨u, _, hw, .inr (.inr rfl), .inr (ht.trans (State.raise_floatError_on hen))⟩

/-! ## The memories under a store -/

/-- A store to a word of a memory keeps the memory canonical and its size (20_memory.md R60, R65). -/
theorem Memory.ok_writeWord {n : Nat} {m : Memory} {a : Nat} (w : Word) (ha : a < n)
    (h : Memory.wf m = true ∧ Memory.within n m = true) :
    Memory.wf (Memory.writeWord m a w) = true ∧ Memory.within n (Memory.writeWord m a w) = true :=
  ⟨Memory.wf_writeWord a w h.1, Memory.within_writeWord w ha h.2⟩

/-- `WrittenOk` as a property of the memory and the list. -/
def WrittenWords (m : Memory) (l : List Nat) : Prop :=
  rising l = true ∧ ∀ a, a ∈ l → (Memory.word? m a).isSome = true

/-- A store keeps the noted words rising and written, the new one included (R79). -/
theorem WrittenWords.store {m : Memory} {l : List Nat} (a : Nat) (v : Word) (h : WrittenWords m l) :
    WrittenWords (Memory.writeWord m a v) (insertAddress a l) := by
  obtain ⟨hrising, hwritten⟩ := h
  refine ⟨rising_insertAddress a hrising, fun b hb => ?_⟩
  rw [Memory.word?_writeWord]
  split
  · rfl
  · next hne => exact hwritten b (((mem_insertAddress a b l).1 hb).resolve_left hne)

/-! ## The invariant -/

theorem State.inv_reset : State.reset.Inv where
  localMemory := ⟨rfl, rfl⟩
  commonMemory := ⟨rfl, rfl⟩
  idleFlag := ⟨fun _ => rfl, fun _ => rfl⟩
  buffer := ⟨Nat.zero_le _, List.nodup_nil⟩
  written := ⟨rfl, fun _ ha => absurd ha List.not_mem_nil⟩
  field := nofun

theorem Works.localMemoryOk {s t : State} (h : Works s t) (hs : s.LocalMemoryOk) : t.LocalMemoryOk := by
  induction h with
  | start => exact hs
  | localStore a x ha _ ih => exact Memory.ok_writeWord x ha ih
  | _ => assumption

theorem Works.commonMemoryOk {s t : State} (h : Works s t) (hs : s.CommonMemoryOk) : t.CommonMemoryOk := by
  induction h with
  | start => exact hs
  | commonStore rel x _ hc _ ih => exact Memory.ok_writeWord x hc ih
  | _ => assumption

theorem Works.writtenOk {s t : State} (h : Works s t) (hs : s.WrittenOk) : t.WrittenOk := by
  induction h with
  | start => exact hs
  | commonStore rel x _ _ _ ih => exact WrittenWords.store _ x ih
  | _ => assumption

/-- The work of an instruction keeps the invariant: it changes the memories by stores inside them only, and leaves
the rest of what the invariant names alone. -/
theorem Works.inv {s t : State} (h : Works s t) (hs : s.Inv) : t.Inv := by
  obtain ⟨hba, hla, hrun, -, hibuf, -, -, hidle, -⟩ := h.keeps
  have hidleFlag := hs.idleFlag
  have hbuffer := hs.buffer
  have hfield := hs.field
  exact {
    localMemory := h.localMemoryOk hs.localMemory
    commonMemory := h.commonMemoryOk hs.commonMemory
    idleFlag := by rwa [State.IdleFlagOk, hidle, hrun]
    buffer := by rwa [State.BufferOk, hibuf]
    written := h.writtenOk hs.written
    field := by rwa [State.FieldOk, State.fieldOk, hrun, hba, hla] }

theorem State.Inv.setRangeErr {s : State} (h : s.Inv) : s.setRangeErr.Inv :=
  ⟨h.localMemory, h.commonMemory, h.idleFlag, h.buffer, h.written, h.field⟩

theorem State.Inv.setFloatErr {s : State} (h : s.Inv) : s.setFloatErr.Inv :=
  ⟨h.localMemory, h.commonMemory, h.idleFlag, h.buffer, h.written, h.field⟩

/-- A halt leaves the processor idle with its memories stored to inside their sizes (60_exceptions.md R425, R427). -/
theorem State.Inv.halt {s : State} (h : s.Inv) : s.halt.Inv where
  localMemory := State.halt_keeps_local
    (P := fun m => Memory.wf m = true ∧ Memory.within Config.lmWords m = true)
    h.localMemory fun _ _ v ha hm => Memory.ok_writeWord v ha hm
  commonMemory := State.halt_keeps_common
    (P := fun m _ => Memory.wf m = true ∧ Memory.within Config.cmWords m = true)
    h.commonMemory fun _ _ _ v ha hm => Memory.ok_writeWord v ha hm
  idleFlag := ⟨fun _ => rfl, fun _ => rfl⟩
  buffer := s.halt_bufferOk h.buffer
  written := State.halt_keeps_common (P := WrittenWords) h.written fun _ _ a v _ hm => hm.store a v
  field := nofun

theorem State.Inv.exit {s : State} (h : s.Inv) (code : BitVec 6) : (s.raise (.exit code)).Inv :=
  ⟨h.localMemory, h.commonMemory, ⟨fun _ => rfl, fun _ => rfl⟩, h.buffer, h.written, nofun⟩

theorem Effect.inv {s t : State} (h : Effect s t) (hs : s.Inv) : t.Inv := by
  obtain ⟨u, v, hw, hv, ht⟩ := h.parts
  have hu : u.Inv := hw.inv hs
  have hvInv : v.Inv := by
    rcases hv with rfl | rfl | rfl
    · exact hu
    · exact hu.setRangeErr
    · exact hu.setFloatErr
  rcases ht with rfl | rfl
  · exact hvInv
  · exact hvInv.halt

theorem exec_inv {x : Instr} {s t : State} (h : exec x s = .next t) (hs : s.Inv) : t.Inv := by
  rcases exec_effect h with he | ⟨jk, -, rfl⟩
  · exact he.inv hs
  · exact hs.exit jk

theorem State.Inv.tick {s : State} (h : s.Inv) : s.tick.Inv :=
  ⟨h.localMemory, h.commonMemory, h.idleFlag, h.buffer, h.written, h.field⟩

theorem State.Inv.fill {s : State} (h : s.Inv) (n : Nat) : (s.fill n).Inv :=
  ⟨h.localMemory, h.commonMemory, h.idleFlag, fillBlocks_ok h.buffer.1 h.buffer.2, h.written, h.field⟩

/-- Settles O12: a step ticks, fills the buffer and executes, and each of them keeps the invariant. -/
theorem stepKeepsInvariant : Obligations.StepKeepsInvariant := by
  intro s t hs h
  rcases step_next h with ⟨-, rfl⟩ | ⟨-, -, l, i, rest, -, -, hexec⟩
  · exact hs.tick
  · exact exec_inv hexec (hs.tick.fill l.length)

/-- Settles O13: both memories are empty lists, and nothing is noted as written. -/
theorem resetInvariant : Obligations.ResetInvariant :=
  ⟨rfl, fun _ => rfl, fun _ => rfl, State.inv_reset⟩

/-! ## The clock (R38) -/

/-- Setting an error bit and halting do not set the clock back, and no other part of an instruction touches it. -/
theorem exec_rtc_le {x : Instr} {s t : State} (h : exec x s = .next t) : s.rtc.toNat ≤ t.rtc.toNat := by
  rcases exec_effect h with he | ⟨jk, -, rfl⟩
  · obtain ⟨u, v, hw, hv, ht⟩ := he.parts
    obtain ⟨-, -, -, hu, -⟩ := hw.keeps
    have hvrtc : v.rtc = s.rtc := by rcases hv with rfl | rfl | rfl <;> exact hu
    rw [← hvrtc]
    rcases ht with rfl | rfl
    · exact Nat.le_refl _
    · exact v.halt_rtc_le
  · exact Nat.le_refl _

/-- Settles O9: every step ticks, and what follows in it does not set the clock back. -/
theorem clockCounts : Obligations.ClockCounts := by
  intro s t h hlast
  have htick : s.rtc.toNat < s.tick.rtc.toNat := State.clockNext_gt hlast
  rcases step_next h with ⟨-, rfl⟩ | ⟨-, -, l, i, rest, -, -, hexec⟩
  · exact htick
  · exact Nat.lt_of_lt_of_le htick (exec_rtc_le hexec :)

/-- Settles O8: an idle step is a tick. -/
theorem idleOnlyCounts : Obligations.IdleOnlyCounts := by
  intro s hidle
  refine ⟨s.tick, ?_, frame_tick s⟩
  simp only [step, hidle]

/-! ## The assignment of the processor (R29, R30, R39, R42) -/

/-- BA, LA and the Semaphore flags of other processors are as they were. -/
def SameAssignment (s t : State) : Prop :=
  t.ba = s.ba ∧ t.la = s.la ∧ ∀ n : Fin 8, n.val ≠ s.st.semPtr.toNat → t.sem[n] = s.sem[n]

/-- The Semaphore pointer is as it was and no error bit is cleared (R42, R43). -/
def KeepsStatus (s t : State) : Prop :=
  t.st.semPtr = s.st.semPtr ∧ (s.st.rangeErr = true → t.st.rangeErr = true) ∧
    (s.st.floatErr = true → t.st.floatErr = true)

/-- A Semaphore instruction changes the assigned flag only. -/
theorem State.setSemFlag_sem_ne (s : State) (b : Bool) {n : Fin 8} (h : n.val ≠ s.st.semPtr.toNat) :
    (s.setSemFlag b).sem[n] = s.sem[n] := by
  simp only [State.setSemFlag_sem]
  exact Vector.getElem_set_ne _ _ h.symm

theorem Works.sem_ne {s t : State} (h : Works s t) {n : Fin 8} (hn : n.val ≠ s.st.semPtr.toNat) :
    t.sem[n] = s.sem[n] := by
  induction h with
  | start => rfl
  | @takeSem t hw ih =>
    obtain ⟨-, -, -, -, -, -, hptr, -⟩ := hw.keeps
    exact (t.setSemFlag_sem_ne true (hptr ▸ hn)).trans ih
  | @releaseSem t hw ih =>
    obtain ⟨-, -, -, -, -, -, hptr, -⟩ := hw.keeps
    exact (t.setSemFlag_sem_ne false (hptr ▸ hn)).trans ih
  | _ => assumption

theorem Works.sameAssignment {s t : State} (h : Works s t) : SameAssignment s t := by
  obtain ⟨hba, hla, -⟩ := h.keeps
  exact ⟨hba, hla, fun _ => h.sem_ne⟩

theorem Works.keepsStatus {s t : State} (h : Works s t) : KeepsStatus s t := by
  obtain ⟨-, -, -, -, -, -, hptr, -, -, -, hrange, hfloat⟩ := h.keeps
  exact ⟨hptr, hrange.trans, hfloat.trans⟩

theorem exec_keepsStatus {x : Instr} {s t : State} (h : exec x s = .next t) : KeepsStatus s t := by
  rcases exec_effect h with he | ⟨jk, -, rfl⟩
  · obtain ⟨u, v, hw, hv, ht⟩ := he.parts
    obtain ⟨hptr, hrange, hfloat⟩ := hw.keepsStatus
    have hvs : KeepsStatus s v := by
      rcases hv with rfl | rfl | rfl
      · exact ⟨hptr, hrange, hfloat⟩
      · exact ⟨hptr, fun _ => rfl, hfloat⟩
      · exact ⟨hptr, hrange, fun _ => rfl⟩
    rcases ht with rfl | rfl
    · exact hvs
    · obtain ⟨hptr, hrange, hfloat⟩ := hvs
      obtain ⟨-, -, -, -, hhptr, hhrange, hhfloat⟩ := v.halt_status
      exact ⟨hhptr.trans hptr, hhrange ∘ hrange, hhfloat ∘ hfloat⟩
  · exact ⟨rfl, id, id⟩

/-- An instruction that leaves the processor running, or is an exit, keeps the assignment. -/
theorem exec_sameAssignment {x : Instr} {s t : State} (h : exec x s = .next t)
    (hgo : t.run = .running ∨ ∃ jk, x = .exit jk ∨ x = .exitAlt jk) : SameAssignment s t := by
  by_cases hx : ∃ jk, x = .exit jk ∨ x = .exitAlt jk
  · obtain ⟨jk, rfl | rfl⟩ := hx <;> cases h <;> exact ⟨rfl, rfl, fun _ _ => rfl⟩
  · have hrun := hgo.resolve_right hx
    have he : Effect s t :=
      exec_effect_of_not_exit h fun jk => ⟨fun hjk => hx ⟨jk, .inl hjk⟩, fun hjk => hx ⟨jk, .inr hjk⟩⟩
    obtain ⟨u, v, hw, hv, rfl | rfl⟩ := he.parts
    · rcases hv with rfl | rfl | rfl <;> exact hw.sameAssignment
    · cases hrun.symm.trans v.halt_status.1

/-- Settles O15: the instruction that `NoHalt` calls an exit is the one the step decodes. -/
theorem stepKeepsAssignment : Obligations.StepKeepsAssignment := by
  intro s t h
  rcases step_next h with ⟨-, rfl⟩ | ⟨hrun, -, l, i, rest, hfetch, hdecode, hexec⟩
  · exact ⟨rfl, id, id, fun _ => ⟨rfl, rfl, fun _ _ => rfl⟩⟩
  · obtain ⟨hptr, hrange, hfloat⟩ := exec_keepsStatus hexec
    refine ⟨hptr, hrange, hfloat, fun hno => ?_⟩
    have hgo : t.run = .running ∨ ∃ jk, i = .exit jk ∨ i = .exitAlt jk := by
      refine (hno hrun).imp_right ?_
      rintro ⟨jk, l', rest', i', hfetch', hdecode', hexit⟩
      cases hfetch.symm.trans hfetch'
      cases hdecode.symm.trans hdecode'
      exact ⟨jk, hexit⟩
    exact (exec_sameAssignment hexec hgo :)

end Sys2Proof.Machine

/-! # Proofs: fetching (20_memory.md R66, R72; 10_state.md R26) -/

namespace Sys2Proof.Machine

/-- The parcel number is the address modulo 4, also past the wrap of P (entry 10). -/
theorem parcelIndex_add (p : Addr) (m : Nat) : parcelIndex (p + BitVec.ofNat 32 m) = (p.toNat + m) % 4 := by
  simp only [parcelIndex, BitVec.extractLsb'_toNat, BitVec.toNat_add, BitVec.toNat_ofNat, Nat.shiftRight_zero]
  omega

theorem State.fetchParcel_of_word {s : State} {p : Addr} {w : Word} (hw : s.Holds (p >>> 2) w)
    (hnew : s.wordOf (p >>> 2) ∉ s.written) :
    s.fetchParcel p = .ok (w.extractLsb' (48 - 16 * parcelIndex p) 16) := by
  obtain ⟨⟨⟨hba, hla⟩, hcm⟩, hword⟩ := hw
  have hfield : s.inField (s.parcelWord p) = true := by
    simp only [State.inField, BitVec.le_def, BitVec.lt_def, Bool.and_eq_true, decide_eq_true_eq]
    exact ⟨hba, hla⟩
  have hcm' : ¬ Config.cmWords ≤ (s.parcelWord p).toNat := Nat.not_le.2 hcm
  have hnotin : (s.parcelWord p).toNat ∉ s.written := hnew
  have hnew' : s.written.contains (s.parcelWord p).toNat = false := by simpa using hnotin
  have hword' : Memory.word? s.cm (s.parcelWord p).toNat = some w := hword
  simp only [State.fetchParcel, hfield, hcm', hnew', hword']
  rfl

/-- Parcels that can each be fetched are fetched in order. -/
theorem State.fetchParcels_of_ok {s : State} {p : Addr} {x : Nat → Parcel} {n : Nat}
    (h : ∀ m, m < n → s.fetchParcel (p + BitVec.ofNat 32 m) = .ok (x m)) :
    s.fetchParcels n p = .ok ((List.range n).map x) := by
  induction n generalizing p x with
  | zero => rfl
  | succ n ih =>
    have hfirst : s.fetchParcel p = .ok (x 0) := by simpa using h 0 (Nat.succ_pos n)
    have hrest : s.fetchParcels n (p + 1) = .ok ((List.range n).map (x ∘ Nat.succ)) := by
      refine ih fun m hm => ?_
      rw [show p + 1 + BitVec.ofNat 32 m = p + BitVec.ofNat 32 (m + 1) by bv_omega]
      exact h (m + 1) (Nat.succ_lt_succ hm)
    simp only [State.fetchParcels, hfirst, hrest, List.range_succ_eq_map, List.map_cons, List.map_map]

/-- Settles O6: the first parcel gives the length, and each parcel of that length is in a readable word. -/
theorem fetchReadsParcels : Obligations.FetchReadsParcels := by
  intro s w n hn hreadable
  have hparcel : ∀ m, m < n → s.fetchParcel (s.p + BitVec.ofNat 32 m) =
      .ok ((w m).extractLsb' (48 - 16 * ((s.p.toNat + m) % 4)) 16) := by
    intro m hm
    obtain ⟨hholds, hnew⟩ := hreadable m hm
    rw [State.fetchParcel_of_word hholds hnew, parcelIndex_add]
  have hfirst : s.fetchParcel s.p = .ok ((w 0).extractLsb' (48 - 16 * (s.p.toNat % 4)) 16) := by
    simpa using hparcel 0 (hn ▸ one_le_parcelCount _)
  simp only [State.fetch, hfirst, ← hn]
  exact State.fetchParcels_of_ok hparcel

end Sys2Proof.Machine

/-! # Proofs: loads, and transfers of vectors with Local Memory (43_entry_local_memory.md, 44_common_memory.md)

What a reference answers in each case of its address; what a stream of references answers; then the instructions. -/

namespace Sys2Proof.Machine

theorem lowHalf_eq_ofNat (w : Word) : lowHalf w = BitVec.ofNat 32 w.toNat := rfl

/-! ## One reference -/

theorem State.localRead_of_le {s : State} {a : Nat} (ha : Config.lmWords ≤ a) :
    s.localRead a = .error .localAddress := by
  simp only [State.localRead, localIndex_of_le ha]

theorem State.localRead_of_unwritten {s : State} {a : Nat} (ha : a < Config.lmWords)
    (hw : Memory.word? s.lm a = none) : s.localRead a = .error .unwrittenLocal := by
  simp only [State.localRead, localIndex_of_lt ha, hw]

/-- A read at a legal address answers a word or finds it unwritten. -/
theorem State.localRead_of_lt (s : State) {a : Nat} (ha : a < Config.lmWords) :
    (∃ w, s.localRead a = .ok w) ∨ s.localRead a = .error .unwrittenLocal := by
  cases hw : Memory.word? s.lm a with
  | some w => exact .inl ⟨w, State.localRead_of_word ha hw⟩
  | none => exact .inr (State.localRead_of_unwritten ha hw)

theorem State.localWrite_of_le (s : State) {a : Nat} (v : Word) (ha : Config.lmWords ≤ a) :
    s.localWrite a v = .error .localAddress := by
  simp only [State.localWrite, localIndex_of_le ha]

/-- `InRange` is the field test of the model. -/
theorem State.inRange_iff {s : State} {rel : Addr} : s.InRange rel ↔ s.rangeBad rel = false :=
  State.rangeBad_eq_false.symm

theorem State.not_inRange_iff {s : State} {rel : Addr} : ¬ s.InRange rel ↔ s.rangeBad rel = true := by
  rw [State.inRange_iff, Bool.not_eq_false]

theorem State.commonRead_of_holds {s : State} {rel : Addr} {w : Word} (h : s.Holds rel w) :
    s.commonRead rel = .ok w := by
  obtain ⟨⟨hin, hcm⟩, hw⟩ := h
  exact State.commonRead_of_word (State.inRange_iff.1 hin) hcm hw

theorem State.commonRead_of_not_inRange {s : State} {rel : Addr} (h : ¬ s.InRange rel) : s.commonRead rel = .ok 0 :=
  State.commonRead_of_bad (State.not_inRange_iff.1 h)

theorem State.commonRead_of_unwritten {s : State} {rel : Addr} (h : s.Reaches rel)
    (hw : Memory.word? s.cm (s.wordOf rel) = none) : s.commonRead rel = .error .unwrittenCommon := by
  obtain ⟨hin, hcm⟩ := h
  have hbad := State.inRange_iff.1 hin
  have hcm' : (s.absolute rel).toNat < Config.cmWords := hcm
  have hw' : Memory.word? s.cm (s.absolute rel).toNat = none := hw
  simp only [State.commonRead, hbad, if_pos hcm', hw']
  rfl

/-- A reference that reaches Common Memory answers a word or finds it unwritten. -/
theorem State.commonRead_of_reaches {s : State} {rel : Addr} (h : s.Reaches rel) :
    (∃ w, s.commonRead rel = .ok w) ∨ s.commonRead rel = .error .unwrittenCommon := by
  cases hw : Memory.word? s.cm (s.wordOf rel) with
  | some w => exact .inl ⟨w, State.commonRead_of_holds ⟨h, hw⟩⟩
  | none => exact .inr (State.commonRead_of_unwritten h hw)

/-! ## Streams that fault (entry 40) -/

theorem collect_ok_or_error {f : Nat → Except Fault Word} {n : Nat} {x : Fault}
    (h : ∀ e, e < n → (∃ w, f e = .ok w) ∨ f e = .error x) :
    (∃ l, collect f n = .ok l) ∨ collect f n = .error x := by
  induction n with
  | zero => exact .inl ⟨[], rfl⟩
  | succ n ih =>
    rcases ih fun e he => h e (Nat.lt_succ_of_lt he) with ⟨l, hl⟩ | hl
    · rcases h n (Nat.lt_succ_self n) with ⟨w, hw⟩ | hw
      · exact .inl ⟨l ++ [w], by simp only [collect, hl, hw]⟩
      · exact .inr (by simp only [collect, hl, hw])
    · exact .inr (by simp only [collect, hl])

/-- A stream of reads faults as one of its elements does, where those before it answer or fault alike. -/
theorem collect_of_error {f : Nat → Except Fault Word} {n e : Nat} {x : Fault} (he : e < n) (hf : f e = .error x)
    (h : ∀ d, d < e → (∃ w, f d = .ok w) ∨ f d = .error x) : collect f n = .error x := by
  induction n with
  | zero => exact absurd he (Nat.not_lt_zero e)
  | succ n ih =>
    rcases Nat.lt_or_eq_of_le (Nat.lt_succ_iff.1 he) with hlt | rfl
    · simp only [collect, ih hlt]
    · rcases collect_ok_or_error h with ⟨l, hl⟩ | hl
      · simp only [collect, hl, hf]
      · simp only [collect, hl]

/-- A sequence of updates faults as one of its parts does in every state, where those before it answer or fault
alike. -/
theorem sequence_of_error {f : Nat → State → Except Fault State} {n e : Nat} {s : State} {x : Fault} (he : e < n)
    (hf : ∀ u, f e u = .error x) (h : ∀ d u, d < e → (∃ v, f d u = .ok v) ∨ f d u = .error x) :
    sequence f n s = .error x := by
  have hbefore : ∀ m, m ≤ e → (∃ v, sequence f m s = .ok v) ∨ sequence f m s = .error x := by
    intro m hm
    induction m with
    | zero => exact .inl ⟨s, rfl⟩
    | succ m ih =>
      rcases ih (by omega) with ⟨u, hu⟩ | hu
      · simpa only [sequence, hu] using h m u hm
      · exact .inr (by simp only [sequence, hu])
  induction n with
  | zero => exact absurd he (Nat.not_lt_zero e)
  | succ n ih =>
    rcases Nat.lt_or_eq_of_le (Nat.lt_succ_iff.1 he) with hlt | rfl
    · simp only [sequence, ih hlt]
    · rcases hbefore e (Nat.le_refl e) with ⟨u, hu⟩ | hu
      · simp only [sequence, hu, hf]
      · simp only [sequence, hu]

/-! ## Loads of Local Memory words -/

theorem State.localToA_of_word {s : State} {a : Nat} {w : Word} (i : Reg) (n : Nat) (h : s.localRead a = .ok w) :
    s.localToA i a n = .next ((s.setA i (BitVec.ofNat 32 w.toNat)).advance n) := by
  simp only [State.localToA, h, State.enterA, lowHalf_eq_ofNat]

theorem State.localToS_of_word {s : State} {a : Nat} {w : Word} (i : Reg) (n : Nat) (h : s.localRead a = .ok w) :
    s.localToS i a n = .next ((s.setS i w).advance n) := by
  simp only [State.localToS, h, State.enterS]

theorem State.localToA_of_error {s : State} {a : Nat} {f : Fault} (i : Reg) (n : Nat) (h : s.localRead a = .error f) :
    s.localToA i a n = .fault f := by
  simp only [State.localToA, h]

theorem State.localToS_of_error {s : State} {a : Nat} {f : Fault} (i : Reg) (n : Nat) (h : s.localRead a = .error f) :
    s.localToS i a n = .fault f := by
  simp only [State.localToS, h]

/-- The three outcomes of a pair of loads from one address, to an A and to an S register. -/
theorem localLoad_cases {s : State} {x y : Instr} {i : Reg} {a n : Nat} (hx : exec x s = s.localToA i a n)
    (hy : exec y s = s.localToS i a n) (w : Word) :
    (a ≤ 16383 → Memory.word? s.lm a = some w →
      DeliversA x s i (BitVec.ofNat 32 w.toNat) n ∧ DeliversS y s i w n) ∧
    (16383 < a → exec x s = .fault .localAddress ∧ exec y s = .fault .localAddress) ∧
    (a ≤ 16383 → Memory.word? s.lm a = none →
      exec x s = .fault .unwrittenLocal ∧ exec y s = .fault .unwrittenLocal) := by
  refine ⟨fun ha hw => ?_, fun ha => ?_, fun ha hw => ?_⟩
  · have hread := State.localRead_of_word (Nat.lt_succ_of_le ha) hw
    exact ⟨deliversA_of_exec (hx.trans (State.localToA_of_word i n hread)),
      deliversS_of_exec (hy.trans (State.localToS_of_word i n hread))⟩
  · have hread := State.localRead_of_le (s := s) ha
    exact ⟨hx.trans (State.localToA_of_error i n hread), hy.trans (State.localToS_of_error i n hread)⟩
  · have hread := State.localRead_of_unwritten (Nat.lt_succ_of_le ha) hw
    exact ⟨hx.trans (State.localToA_of_error i n hread), hy.trans (State.localToS_of_error i n hread)⟩

/-- Settles O35: the address is the constant in 044 and 054, (A_k) in 046 and 056. -/
theorem localLoads : Obligations.LocalLoads := by
  intro s i k h w
  obtain ⟨hword, hhigh, hunwritten⟩ :=
    localLoad_cases (s := s) (x := .loadALocal i h) (y := .loadSLocal i h) (a := h.toNat) rfl rfl w
  obtain ⟨hwordReg, hhighReg, hunwrittenReg⟩ :=
    localLoad_cases (s := s) (x := .loadALocalReg i k) (y := .loadSLocalReg i k) (a := (s.getA k).toNat) rfl rfl w
  exact ⟨hword, hwordReg, hhigh, hhighReg, hunwritten, hunwrittenReg⟩

/-! ## Loads of Common Memory words -/

theorem State.loadS_of_ok {s : State} {rel : Addr} {w : Word} (i : Reg) (n : Nat) (h : s.commonRead rel = .ok w) :
    s.loadS i rel n = .next (((s.setS i w).advance n).signal .rangeError (s.rangeBad rel)) := by
  simp only [State.loadS, h]

theorem State.loadS_of_error {s : State} {rel : Addr} {f : Fault} (i : Reg) (n : Nat)
    (h : s.commonRead rel = .error f) : s.loadS i rel n = .fault f := by
  simp only [State.loadS, h]

/-- Settles O37: each of the four is `loadS` at its own address, and the cases are those of one reference. -/
theorem commonLoads : Obligations.CommonLoads := by
  intro s i j k c x rel n hx
  have hexec : exec x s = s.loadS i rel n := by
    rcases hx with ⟨rfl, rfl, rfl⟩ | ⟨rfl, rfl, rfl⟩ | ⟨rfl, rfl, rfl⟩ | ⟨rfl, rfl, rfl⟩ <;> rfl
  have houtside : ¬ s.InRange rel → exec x s = .next (((s.setS i 0).advance n).raise .rangeError) := by
    intro hout
    rw [hexec, State.loadS_of_ok i n (State.commonRead_of_not_inRange hout), State.not_inRange_iff.1 hout,
      State.signal_true]
  refine ⟨fun w hw => ?_, fun hout hoff => ?_, fun hout hon => ?_, fun hreach hnone => ?_⟩
  · apply deliversS_of_exec
    have hread := State.commonRead_of_holds hw
    obtain ⟨⟨hin, -⟩, -⟩ := hw
    rw [hexec, State.loadS_of_ok i n hread, State.inRange_iff.1 hin, State.signal_false]
  · have hnext := houtside hout
    rw [State.raise_rangeError_off (s := (s.setS i 0).advance n) hoff] at hnext
    refine ⟨_, hnext, ?_, s.getS_setS_same i 0, rfl, rfl⟩
    exact (((frame_setS s i 0).trans (frame_advance _ n)).trans (frame_setRangeErr _)).mono
      (by rintro q ((h | h) | h) <;> simp [h])
  · exact halts_of_rangeError (houtside hout) rfl hon
  · rw [hexec, State.loadS_of_error i n (State.commonRead_of_unwritten hreach hnone)]

/-! ## Loads of vectors from Common Memory -/

theorem State.loadV_of_ok {s : State} {i : Reg} {rel : Nat → Addr}
    (h : ∀ e, e < s.vlen → ∃ w, s.commonRead (rel e) = .ok w) :
    ∃ f : Nat → Word, (∀ e, e < s.vlen → s.commonRead (rel e) = .ok (f e)) ∧
      s.loadV i rel = .next (((s.setV i s.vlen f).advance 1).signal .rangeError
        (anyBelow (fun e => s.rangeBad (rel e)) s.vlen)) := by
  obtain ⟨l, hl⟩ := collect_of_ok h
  exact ⟨fun e => l.getD e 0, (collect_eq_ok hl).2, by simp only [State.loadV, hl]⟩

/-- A vector load that does not halt loads its elements: one outside the field as zero (20_memory.md R70, R82). -/
theorem loadsElements_of_exec {x : Instr} {s : State} {i : Reg} {rel : Nat → Addr} {f : Nat → Word}
    (hexec : exec x s = .next (((s.setV i s.vlen f).advance 1).signal .rangeError
      (anyBelow (fun e => s.rangeBad (rel e)) s.vlen)))
    (hread : ∀ e, e < s.vlen → s.commonRead (rel e) = .ok (f e))
    (hgo : (∃ e, e < s.vlen ∧ ¬ s.InRange (rel e)) → s.st.enRangeHalt = false) :
    LoadsElements x s i s.vlen rel := by
  have hbad : anyBelow (fun e => s.rangeBad (rel e)) s.vlen = true ↔ ∃ e, e < s.vlen ∧ ¬ s.InRange (rel e) := by
    simp only [anyBelow_eq_true, State.not_inRange_iff]
  generalize anyBelow (fun e => s.rangeBad (rel e)) s.vlen = b at hexec hbad
  have hoff : b = true → ((s.setV i s.vlen f).advance 1).st.enRangeHalt = false := fun h => hgo (hbad.1 h)
  have hsignal := frame_signal_rangeError hoff
  have helem : ∀ e w, e < s.vlen → s.commonRead (rel e) = .ok w →
      (((s.setV i s.vlen f).advance 1).signal .rangeError b).elem i e = w := by
    intro e w he hw
    cases (hread e he).symm.trans hw
    exact (hsignal (.v i e) nofun).trans (s.elem_setV_lt i f he s.vlen_bounds.2)
  have herr := (rangeErr_signal_rangeError hoff).trans (or_congr_right hbad)
  refine ⟨_, hexec, ?_, ?_, ?_, herr, hsignal .p nofun⟩
  · exact (((frame_setV s i s.vlen f).trans (frame_advance _ 1)).trans hsignal).mono
      (by rintro q ((h | h) | h) <;> simp [h])
  · exact fun e he hout => helem e 0 he (State.commonRead_of_not_inRange hout)
  · exact fun e w he hw => helem e w he (State.commonRead_of_holds hw)

/-- Settles O39: both instructions are `loadV`, at the addresses the statement names; a stream with a reference to an
unwritten word, and no other fault, faults there. -/
theorem vectorLoads : Obligations.VectorLoads := by
  intro s i j k x rel hx
  have hexec : exec x s = s.loadV i rel := by
    rcases hx with ⟨rfl, rfl⟩ | ⟨rfl, rfl⟩
    · rfl
    · refine congrArg (s.loadV i) (funext fun e => congrArg (s.getA k + ·) ?_)
      unfold State.vsrc
      split <;> rfl
  refine ⟨fun hall => ?_, fun hall ⟨e, he, hreach, hnone⟩ => ?_⟩
  · have hok : ∀ e, e < s.vlen → ∃ w, s.commonRead (rel e) = .ok w := by
      intro e he
      rcases hall e he with hout | ⟨w, hw⟩
      · exact ⟨0, State.commonRead_of_not_inRange hout⟩
      · exact ⟨w, State.commonRead_of_holds hw⟩
    obtain ⟨f, hread, hload⟩ := State.loadV_of_ok (i := i) hok
    refine ⟨fun hgo => ?_, fun hon ⟨e, he, hout⟩ => ?_⟩
    · refine loadsElements_of_exec (hexec.trans hload) hread ?_
      rintro ⟨e, he, hout⟩
      exact hgo.resolve_right fun hin => hout (hin e he)
    · have hbad : anyBelow (fun e => s.rangeBad (rel e)) s.vlen = true :=
        anyBelow_eq_true.2 ⟨e, he, State.not_inRange_iff.1 hout⟩
      rw [hbad] at hload
      exact halts_of_rangeError (hexec.trans hload) rfl hon
  · have hcollect : collect (fun e => s.commonRead (rel e)) s.vlen = .error .unwrittenCommon := by
      refine collect_of_error he (State.commonRead_of_unwritten hreach hnone) fun d hd => ?_
      rcases hall d (hd.trans he) with hout | hreach
      · exact .inl ⟨0, State.commonRead_of_not_inRange hout⟩
      · exact State.commonRead_of_reaches hreach
    simp only [hexec, State.loadV, hcollect]

/-! ## Vectors to and from Local Memory -/

theorem exec_loadVLocal_of_error {s : State} {i k : Reg} {f : Fault}
    (h : collect (fun e => s.localRead (s.localStream k e)) s.vlen = .error f) :
    exec (.loadVLocal i k) s = .fault f := by
  simp only [exec, execLoadVLocal, h]

theorem loadVLocal_delivers {s : State} {i k : Reg} {w : Nat → Word} (hend : (s.getA k).toNat + s.vlen ≤ 16384)
    (hw : ∀ e, e < s.vlen → Memory.word? s.lm ((s.getA k).toNat + e) = some (w e)) :
    DeliversV (.loadVLocal i k) s i s.vlen w := by
  have hread : ∀ e, e < s.vlen → s.localRead (s.localStream k e) = .ok (w e) := by
    intro e he
    refine State.localRead_of_word ?_ (hw e he)
    simp only [Config.lmWords, State.localStream]
    omega
  obtain ⟨l, hl⟩ := collect_of_ok fun e he => ⟨w e, hread e he⟩
  refine deliversV_of_exec (f := fun e => l.getD e 0) s.vlen_bounds.2 ?_ fun e he => ?_
  · simp only [exec, execLoadVLocal, hl]
  · exact Except.ok.inj (((collect_eq_ok hl).2 e he).symm.trans (hread e he))

/-- The effect of the first `n` stores of 075: those elements stand in Local Memory, and nothing else has changed. -/
def StoredLocally (s : State) (i k : Reg) (n : Nat) (u : State) : Prop :=
  Frame s u (fun q => ∃ e b, e < n ∧ InWord ((s.getA k).toNat + e) b ∧ q = .localByte b) ∧
    ∀ e, e < n → Memory.word? u.lm ((s.getA k).toNat + e) = some (s.elem i e)

theorem StoredLocally.succ {s u : State} {i k : Reg} {n : Nat} (h : StoredLocally s i k n u) :
    StoredLocally s i k (n + 1) (u.storeLocal ((s.getA k).toNat + n) (s.elem i n)) := by
  obtain ⟨hframe, hwords⟩ := h
  refine ⟨(hframe.trans (frame_storeLocal u _ _)).mono ?_, fun e he => ?_⟩
  · rintro q (⟨e, b, he, hb, rfl⟩ | ⟨b, hb, rfl⟩)
    · exact ⟨e, b, Nat.lt_succ_of_lt he, hb, rfl⟩
    · exact ⟨n, b, Nat.lt_succ_self n, hb, rfl⟩
  · rw [State.storeLocal_lm, Memory.word?_writeWord]
    split
    · next heq =>
      cases Nat.add_left_cancel heq
      rfl
    · next hne => exact hwords e (by omega)

theorem storeVLocal_completes {s : State} {i k : Reg} (hend : (s.getA k).toNat + s.vlen ≤ 16384) :
    Completes (.storeVLocal i k) s
      (fun q => q = .p ∨ ∃ e b, e < s.vlen ∧ InWord ((s.getA k).toNat + e) b ∧ q = .localByte b) fun t =>
      (∀ e, e < s.vlen → Memory.word? t.lm ((s.getA k).toNat + e) = some (s.elem i e)) ∧ s.Advanced t 1 := by
  have hstart : StoredLocally s i k 0 s := ⟨.refl s _, nofun⟩
  obtain ⟨u, hu, hframe, hwords⟩ := sequence_of_ok
    (f := fun e t => t.localWrite (s.localStream k e) (s.elem i e)) (n := s.vlen) hstart fun e u he hP =>
      ⟨_, u.localWrite_of_lt _ (by simp only [Config.lmWords, State.localStream]; omega), hP.succ⟩
  refine ⟨u.advance 1, ?_, (hframe.trans (frame_advance u 1)).mono fun _ => Or.symm, hwords, ?_⟩
  · simp only [exec, execStoreVLocal, hu]
  · exact congrArg (· + BitVec.ofNat 32 1) (hframe .p nofun)

/-- A load that runs past the end faults there, where the words before are written (D5, entry 12). -/
theorem loadVLocal_past_end {s : State} {i k : Reg} (hend : 16384 < (s.getA k).toNat + s.vlen)
    (hw : ∀ a, (s.getA k).toNat ≤ a → a ≤ 16383 → (Memory.word? s.lm a).isSome = true) :
    exec (.loadVLocal i k) s = .fault .localAddress := by
  apply exec_loadVLocal_of_error
  refine collect_of_error (e := s.vlen - 1) (Nat.sub_one_lt_of_lt s.vlen_bounds.1) (State.localRead_of_le ?_)
    fun d hd => ?_
  · simp only [Config.lmWords, State.localStream]
    omega
  · by_cases ha : s.localStream k d < Config.lmWords
    · obtain ⟨w, hword⟩ := Option.isSome_iff_exists.1
        (hw (s.localStream k d) (Nat.le_add_right _ _) (Nat.le_of_lt_succ ha))
      exact .inl ⟨w, State.localRead_of_word ha hword⟩
    · exact .inr (State.localRead_of_le (Nat.le_of_not_lt ha))

/-- A load that comes to an unwritten word faults there: the words before lie in Local Memory too. -/
theorem loadVLocal_unwritten {s : State} {i k : Reg} {e : Nat} (he : e < s.vlen)
    (ha : (s.getA k).toNat + e ≤ 16383) (hw : Memory.word? s.lm ((s.getA k).toNat + e) = none) :
    exec (.loadVLocal i k) s = .fault .unwrittenLocal := by
  apply exec_loadVLocal_of_error
  refine collect_of_error he (State.localRead_of_unwritten (Nat.lt_succ_of_le ha) hw) fun d hd => ?_
  refine State.localRead_of_lt s ?_
  simp only [Config.lmWords, State.localStream]
  omega

/-- A store past the end faults, and no other fault can come before (D5, entry 12). -/
theorem storeVLocal_past_end {s : State} {i k : Reg} (hend : 16384 < (s.getA k).toNat + s.vlen) :
    exec (.storeVLocal i k) s = .fault .localAddress := by
  have hseq : sequence (fun e t => t.localWrite (s.localStream k e) (s.elem i e)) s.vlen s =
      .error .localAddress := by
    refine sequence_of_error (e := s.vlen - 1) (Nat.sub_one_lt_of_lt s.vlen_bounds.1)
      (fun u => u.localWrite_of_le _ ?_) fun d u hd => ?_
    · simp only [Config.lmWords, State.localStream]
      omega
    · rcases Nat.lt_or_ge (s.localStream k d) Config.lmWords with ha | ha
      · exact .inl ⟨_, u.localWrite_of_lt _ ha⟩
      · exact .inr (u.localWrite_of_le _ ha)
  simp only [exec, execStoreVLocal, hseq]

/-- Settles O41: the streams of 074 and 075 in each case of their addresses. -/
theorem localVectors : Obligations.LocalVectors := by
  intro s i k w
  exact ⟨loadVLocal_delivers, storeVLocal_completes, storeVLocal_past_end, loadVLocal_past_end,
    fun ⟨_, he, ha, hw⟩ => loadVLocal_unwritten he ha hw⟩

end Sys2Proof.Machine

/-! # Proofs: vector sources and vector logical instructions (10_state.md R34, R37; 47_vector_logical_shift.md)

A meaning reads V registers through `State.vsrc` only, so that what V_i holds does not matter to it, and a register of
zeros stands for V_i. -/

namespace Sys2Proof.Machine

/-! ## Vector sources -/

/-- The source that is the destination reads as zeros (R37). -/
theorem State.vsrc_self (s : State) (i : Reg) (e : Nat) : s.vsrc i i e = 0 := if_pos rfl

theorem State.vsrc_of_ne (s : State) {i x : Reg} (e : Nat) (h : x ≠ i) : s.vsrc i x e = s.elem x e := if_neg h

/-- What the destination holds is not seen by a source. -/
theorem State.vsrc_setV (s : State) (i x : Reg) (n e : Nat) (f : Nat → Word) :
    (s.setV i n f).vsrc i x e = s.vsrc i x e := by
  by_cases h : x = i
  · rw [h, State.vsrc_self, State.vsrc_self]
  · rw [State.vsrc_of_ne _ e h, State.vsrc_of_ne _ e h, State.elem_setV_ne s n f e h]

/-- A register of zeros, whatever its number, reads as the destination does. -/
theorem State.vsrc_of_zeros {s : State} {i z : Reg} (hz : ∀ e, e < 64 → s.elem z e = 0) (e : Nat) :
    s.vsrc i z e = s.vsrc i i e := by
  have hzero : s.elem z e = 0 := by
    rcases Nat.lt_or_ge e 64 with he | he
    · exact hz e he
    · exact s.elem_of_le z he
  rw [State.vsrc_self, State.vsrc, hzero, ite_self]

/-- Of two writes of the same elements the second stays. -/
theorem State.setV_setV (s : State) (i : Reg) (n : Nat) (f g : Nat → Word) :
    (s.setV i n f).setV i n g = s.setV i n g := by
  have hnew : (fun e : Fin 64 => if e.val < n then g e.val else (s.setV i n f).elem i e.val) =
      fun e : Fin 64 => if e.val < n then g e.val else s.elem i e.val := by
    funext e
    split
    · rfl
    · next h => exact s.elem_setV_ge i f (Nat.le_of_not_lt h)
  rw [State.setV, hnew]
  simp only [State.setV, Vector.set_set]

/-! ## The shapes of vector meanings, with the destination replaced -/

section
variable (s : State) (i : Reg) (f : Nat → Word)

theorem State.deliverV_setV (g : Nat → Word) : (s.setV i s.vlen f).deliverV i g = s.deliverV i g := by
  simp only [State.deliverV, State.vlen_setV, State.setV_setV]

theorem State.resultV_setV (g : Nat → Word) : (s.setV i s.vlen f).resultV i g = s.resultV i g := by
  simp only [State.resultV, State.vlen_setV, State.setV_setV]

theorem State.floatV_setV (g : Nat → Word × Bool) : (s.setV i s.vlen f).floatV i g = s.floatV i g := by
  simp only [State.floatV, State.vlen_setV, State.setV_setV]

theorem State.loadV_setV (rel : Nat → Addr) : (s.setV i s.vlen f).loadV i rel = s.loadV i rel := by
  simp only [State.loadV, State.vlen_setV, State.commonRead_setV, State.rangeBad_setV, State.setV_setV]

end

/-! ## All instructions that read and write V registers -/

/-- Whatever the destination holds, the answer is the same: each meaning has one of the shapes above, and takes its
element values from sources and from state that a write of V_i leaves alone. -/
theorem exec_setV_destination (s : State) (i j k : Reg) (f : Nat → Word) :
    ∀ x, x ∈ [.gatherV i j k, .andSV i j k, .andVV i j k, .xorSV i j k, .xorVV i j k, .orSV i j k, .orVV i j k,
        .mergeSV i j k, .mergeVV i j k, .shiftLeftV i j k, .shiftRightV i j k, .doubleShiftLeftV i j k,
        .doubleShiftRightV i j k, .fmulSV i j k, .fmulVV i j k, .recipIterVV i j k, .sqrtIterVV i j k, .addSV i j k,
        .addVV i j k, .subSV i j k, .subVV i j k, .popcountV i j, .parityV i j, .leadingZerosV i j, .recipV i k,
        .rsqrtV i k, .faddSV i j k, .faddVV i j k, .fsubSV i j k, .fsubVV i j k, .fixV i k, .floatV i k] →
      exec x (s.setV i s.vlen f) = exec x s := by
  intro x hx
  simp only [List.mem_cons, List.not_mem_nil, or_false] at hx
  rcases hx with rfl | rfl | rfl | rfl | rfl | rfl | rfl | rfl | rfl | rfl | rfl | rfl | rfl | rfl | rfl | rfl
    | rfl | rfl | rfl | rfl | rfl | rfl | rfl | rfl | rfl | rfl | rfl | rfl | rfl | rfl | rfl | rfl <;>
    simp only [exec,
      execGatherV, execAndSV, execAndVV, execXorSV, execXorVV, execOrSV, execOrVV, execMergeSV, execMergeVV,
      execShiftLeftV, execShiftRightV, execDoubleShiftLeftV, execDoubleShiftRightV, execFmulSV, execFmulVV,
      execRecipIterVV, execSqrtIterVV, execAddSV, execAddVV, execSubSV, execSubVV, execPopcountV, execParityV,
      execLeadingZerosV, execRecipV, execRsqrtV, execFaddSV, execFaddVV, execFsubSV, execFsubVV, execFixV,
      execFloatV,
      State.deliverV_setV, State.resultV_setV, State.floatV_setV, State.loadV_setV, State.vsrc_setV,
      State.relIndex, State.getA_setV, State.getS_setV, State.setV_vm, State.vlen_setV]

section
variable {s : State} {i z : Reg}

/-- A first source with the elements of the destination as a source stands for it: a meaning reads `vsrc` only. -/
theorem exec_firstSource_congr (k : Reg) (hz : ∀ e, s.vsrc i z e = s.vsrc i i e) :
    ∀ c, c ∈ [Instr.gatherV, Instr.andVV, Instr.xorVV, Instr.orVV, Instr.mergeVV, Instr.shiftLeftV,
        Instr.shiftRightV, Instr.doubleShiftLeftV, Instr.doubleShiftRightV, Instr.fmulVV, Instr.recipIterVV,
        Instr.sqrtIterVV, Instr.addVV, Instr.subVV, Instr.faddVV, Instr.fsubVV] →
      exec (c i i k) s = exec (c i z k) s := by
  intro c hc
  simp only [List.mem_cons, List.not_mem_nil, or_false] at hc
  rcases hc with rfl | rfl | rfl | rfl | rfl | rfl | rfl | rfl | rfl | rfl | rfl | rfl | rfl | rfl | rfl | rfl <;>
    simp only [exec,
      execGatherV, execAndVV, execXorVV, execOrVV, execMergeVV, execShiftLeftV, execShiftRightV,
      execDoubleShiftLeftV, execDoubleShiftRightV, execFmulVV, execRecipIterVV, execSqrtIterVV, execAddVV,
      execSubVV, execFaddVV, execFsubVV, hz]

/-- The same of a last source. -/
theorem exec_lastSource_congr (j : Reg) (hz : ∀ e, s.vsrc i z e = s.vsrc i i e) :
    ∀ c, c ∈ [Instr.andSV, Instr.andVV, Instr.xorSV, Instr.xorVV, Instr.orSV, Instr.orVV, Instr.mergeSV,
        Instr.mergeVV, Instr.fmulSV, Instr.fmulVV, Instr.recipIterVV, Instr.sqrtIterVV, Instr.addSV, Instr.addVV,
        Instr.subSV, Instr.subVV, Instr.faddSV, Instr.faddVV, Instr.fsubSV, Instr.fsubVV] →
      exec (c i j i) s = exec (c i j z) s := by
  intro c hc
  simp only [List.mem_cons, List.not_mem_nil, or_false] at hc
  rcases hc with rfl | rfl | rfl | rfl | rfl | rfl | rfl | rfl | rfl | rfl | rfl | rfl | rfl | rfl | rfl | rfl
    | rfl | rfl | rfl | rfl <;>
    simp only [exec,
      execAndSV, execAndVV, execXorSV, execXorVV, execOrSV, execOrVV, execMergeSV, execMergeVV, execFmulSV,
      execFmulVV, execRecipIterVV, execSqrtIterVV, execAddSV, execAddVV, execSubSV, execSubVV, execFaddSV,
      execFaddVV, execFsubSV, execFsubVV, hz]

/-- The same of an only source. -/
theorem exec_onlySource_congr (hz : ∀ e, s.vsrc i z e = s.vsrc i i e) :
    ∀ c, c ∈ [Instr.popcountV, Instr.parityV, Instr.leadingZerosV, Instr.recipV, Instr.rsqrtV, Instr.fixV,
        Instr.floatV] →
      exec (c i i) s = exec (c i z) s := by
  intro c hc
  simp only [List.mem_cons, List.not_mem_nil, or_false] at hc
  rcases hc with rfl | rfl | rfl | rfl | rfl | rfl | rfl <;>
    simp only [exec,
      execPopcountV, execParityV, execLeadingZerosV, execRecipV, execRsqrtV, execFixV, execFloatV, hz]

end

/-- A vector of zeros is delivered where each element comes out as zero. -/
theorem deliversV_zeros {x : Instr} {s : State} {i : Reg} {g : Nat → Word} (hx : exec x s = s.deliverV i g)
    (hg : ∀ e, g e = 0) : DeliversV x s i s.vlen fun _ => 0 :=
  deliversV_of_exec s.vlen_bounds.2 hx fun e _ => hg e

/-- Settles O49: the destination is not seen as a source (R37), and a register of zeros reads as it does. -/
theorem vectorSourceIsDestination : Obligations.VectorSourceIsDestination := by
  intro s i j k z f
  refine ⟨exec_setV_destination s i j k f, fun _ hzeros => ?_, fun x hx => ?_⟩
  · have hz := State.vsrc_of_zeros (i := i) hzeros
    exact ⟨exec_firstSource_congr k hz, exec_lastSource_congr j hz, exec_onlySource_congr hz⟩
  · simp only [List.mem_cons, List.not_mem_nil, or_false] at hx
    rcases hx with rfl | rfl | rfl | rfl
    · exact deliversV_zeros (g := fun e => s.vsrc i i e + s.vsrc i i e) rfl fun e => by simp [State.vsrc_self]
    · exact deliversV_zeros (g := fun e => s.vsrc i i e &&& s.vsrc i i e) rfl fun e => by simp [State.vsrc_self]
    · exact deliversV_zeros (g := fun e => s.vsrc i i e ||| s.vsrc i i e) rfl fun e => by simp [State.vsrc_self]
    · exact deliversV_zeros (g := fun e => s.vsrc i i e ^^^ s.vsrc i i e) rfl fun e => by simp [State.vsrc_self]

/-! ## Logical results and merges -/

/-- An instruction that delivers its values in every state (47_vector_logical_shift.md R350). -/
theorem deliversV_of_deliverV {x : Instr} {s : State} {i : Reg} {g : Nat → Word} (hx : exec x s = s.deliverV i g) :
    DeliversV x s i s.vlen g :=
  deliversV_of_exec s.vlen_bounds.2 hx fun _ _ => rfl

/-- Settles O50: the eight meanings are `deliverV` of the values the statement writes out. -/
theorem vectorLogical : Obligations.VectorLogical := by
  intro s i j k
  exact ⟨deliversV_of_deliverV rfl, deliversV_of_deliverV rfl, deliversV_of_deliverV rfl, deliversV_of_deliverV rfl,
    deliversV_of_deliverV rfl, deliversV_of_deliverV rfl, deliversV_of_deliverV rfl, deliversV_of_deliverV rfl⟩

end Sys2Proof.Machine

/-! # Proofs: the memories, and the instructions that store to them (20_memory.md, 43_entry_local_memory.md,
44_common_memory.md)

What a store touches and what a read answers after it; then one reference, a stream of references, and the
instructions. -/

namespace Sys2Proof.Machine

/-! ## Words and their addresses -/

/-- A byte lies in one word only (entry 7). -/
theorem InWord.unique {a b x : Nat} (ha : InWord a x) (hb : InWord b x) : a = b := by
  obtain ⟨ha1, ha2⟩ := ha
  obtain ⟨hb1, hb2⟩ := hb
  simp only [wordBase] at *
  omega

/-- Adding BA, also past 2^32, keeps relative addresses apart (R69, entry 10). -/
theorem State.wordOf_inj {s : State} {r q : Addr} : s.wordOf r = s.wordOf q ↔ r = q := by
  refine ⟨fun h => ?_, fun h => h ▸ rfl⟩
  have habs : s.ba + r = s.ba + q := BitVec.eq_of_toNat_eq h
  simpa using habs

/-- A store to Common Memory changes the bytes of its word and notes the word (20_memory.md R71, R79). -/
theorem frame_storeCommon (s : State) (a : Nat) (v : Word) :
    Frame s (s.storeCommon a v) fun q => q = .written ∨ ∃ b, InWord a b ∧ q = .commonByte b := by
  intro q hq
  cases q with
  | written => exact absurd (.inl rfl) hq
  | commonByte x =>
    exact (Memory.byte?_writeWord s.cm a v x).trans (if_neg fun h => hq (.inr ⟨x, h, rfl⟩))
  | _ => exact rfl

/-! ## Reads after a store -/

theorem State.localRead_storeLocal_same (s : State) {a : Nat} (v : Word) (ha : a < Config.lmWords) :
    (s.storeLocal a v).localRead a = .ok v :=
  State.localRead_of_word ha (Memory.word?_writeWord_same s.lm a v)

/-- A store leaves every other Local Memory reference as it was, one above 16383 included. -/
theorem State.localRead_storeLocal_ne (s : State) {a b : Nat} (v : Word) (h : b ≠ a) :
    (s.storeLocal a v).localRead b = s.localRead b := by
  rcases Nat.lt_or_ge b Config.lmWords with hb | hb
  · simp only [State.localRead, localIndex_of_lt hb, State.storeLocal_lm, Memory.word?_writeWord_ne s.lm v h]
  · rw [State.localRead_of_le hb, State.localRead_of_le hb]

/-- Settles O20: a write at a legal address is a store. -/
theorem localMemoryLaws : Obligations.LocalMemoryLaws := by
  intro s a v
  refine ⟨fun ha => ?_, fun ha => ⟨State.localRead_of_le ha, s.localWrite_of_le v ha⟩⟩
  have hlt : a < Config.lmWords := Nat.lt_succ_of_le ha
  exact ⟨s.storeLocal a v, s.localWrite_of_lt v hlt, s.localRead_storeLocal_same v hlt,
    fun b hb => s.localRead_storeLocal_ne v hb, frame_storeLocal s a v⟩

theorem State.commonRead_storeCommon_same {s : State} {rel : Addr} (v : Word) (h : s.Reaches rel) :
    (s.storeCommon (s.wordOf rel) v).commonRead rel = .ok v :=
  State.commonRead_of_holds ⟨h, Memory.word?_writeWord_same s.cm (s.wordOf rel) v⟩

/-- A store leaves the references at every other relative address as they were. -/
theorem State.commonRead_storeCommon_ne (s : State) {rel r : Addr} (v : Word) (h : r ≠ rel) :
    (s.storeCommon (s.wordOf rel) v).commonRead r = s.commonRead r := by
  have hword : Memory.word? (Memory.writeWord s.cm (s.wordOf rel) v) (s.absolute r).toNat =
      Memory.word? s.cm (s.absolute r).toNat :=
    Memory.word?_writeWord_ne s.cm v (mt State.wordOf_inj.1 h)
  simp only [State.commonRead, State.rangeBad_storeCommon, State.absolute_storeCommon, State.storeCommon_cm, hword]

theorem State.commonWrite_of_inRange {s : State} {rel : Addr} (v : Word) (h : s.Reaches rel) :
    s.commonWrite rel v = .ok (s.storeCommon (s.wordOf rel) v) := by
  obtain ⟨hin, hcm⟩ := h
  exact State.commonWrite_of_reaches v (State.inRange_iff.1 hin) hcm

theorem State.commonWrite_of_not_inRange {s : State} {rel : Addr} (v : Word) (h : ¬ s.InRange rel) :
    s.commonWrite rel v = .ok s :=
  State.commonWrite_of_bad v (State.not_inRange_iff.1 h)

/-- Settles O21: a write in the field is a store, and one outside it is aborted. -/
theorem commonMemoryLaws : Obligations.CommonMemoryLaws := by
  intro s rel v
  refine ⟨fun h => ?_, fun h => ⟨State.commonRead_of_not_inRange h, State.commonWrite_of_not_inRange v h⟩⟩
  exact ⟨s.storeCommon (s.wordOf rel) v, State.commonWrite_of_inRange v h, State.commonRead_storeCommon_same v h,
    fun r hr => s.commonRead_storeCommon_ne v hr, frame_storeCommon s (s.wordOf rel) v⟩

/-! ## Stores of Local Memory words -/

/-- The two outcomes of a store to Local Memory: 045, 047, 055, 057 differ in the address and the word only. -/
theorem localStore_cases {x : Instr} {s : State} {a n : Nat} {v : Word} (hx : exec x s = s.toLocal a v n) :
    (a ≤ 16383 → StoresLocal x s a v n) ∧ (16383 < a → exec x s = .fault .localAddress) := by
  refine ⟨fun ha => ⟨(s.storeLocal a v).advance n, ?_, ?_, ?_, rfl⟩, fun ha => ?_⟩
  · simp only [hx, State.toLocal, s.localWrite_of_lt v (Nat.lt_succ_of_le ha)]
  · exact ((frame_storeLocal s a v).trans (frame_advance _ n)).mono fun _ => Or.symm
  · exact Memory.word?_writeWord_same s.lm a v
  · simp only [hx, State.toLocal, s.localWrite_of_le v ha]

/-- Settles O36: each of the four is `toLocal`; an A register is sign-extended. -/
theorem localStores : Obligations.LocalStores := by
  intro s i j k h
  obtain ⟨hA, hAHigh⟩ := localStore_cases (s := s) (x := .storeALocal k h)
    (a := h.toNat) (v := BitVec.ofInt 64 (s.getA k).toInt) rfl
  obtain ⟨hS, hSHigh⟩ := localStore_cases (s := s) (x := .storeSLocal j h) (a := h.toNat) (v := s.getS j) rfl
  obtain ⟨hAReg, hARegHigh⟩ := localStore_cases (s := s) (x := .storeALocalReg j k)
    (a := (s.getA k).toNat) (v := BitVec.ofInt 64 (s.getA j).toInt) rfl
  obtain ⟨hSReg, hSRegHigh⟩ := localStore_cases (s := s) (x := .storeSLocalReg i k)
    (a := (s.getA k).toNat) (v := s.getS i) rfl
  exact ⟨fun ha => ⟨hA ha, hS ha⟩, fun ha => ⟨hAReg ha, hSReg ha⟩, fun ha => ⟨hAHigh ha, hSHigh ha⟩,
    fun ha => ⟨hARegHigh ha, hSRegHigh ha⟩⟩

/-! ## Stores of Common Memory words -/

theorem State.storeS_of_reaches {s : State} {rel : Addr} (i : Reg) (n : Nat) (h : s.Reaches rel) :
    s.storeS i rel n = .next ((s.storeCommon (s.wordOf rel) (s.getS i)).advance n) := by
  have hin : s.rangeBad rel = false := State.inRange_iff.1 h.1
  simp only [State.storeS, State.commonWrite_of_inRange _ h, hin, State.signal_false]

theorem State.storeS_of_not_inRange {s : State} {rel : Addr} (i : Reg) (n : Nat) (h : ¬ s.InRange rel) :
    s.storeS i rel n = .next ((s.advance n).raise .rangeError) := by
  simp only [State.storeS, State.commonWrite_of_not_inRange _ h, State.not_inRange_iff.1 h, State.signal_true]

/-- Settles O38: each of the four is `storeS` at its own address, and the cases are those of one reference. -/
theorem commonStores : Obligations.CommonStores := by
  intro s i j k c x rel n hx
  have hexec : exec x s = s.storeS i rel n := by
    rcases hx with ⟨rfl, rfl, rfl⟩ | ⟨rfl, rfl, rfl⟩ | ⟨rfl, rfl, rfl⟩ | ⟨rfl, rfl, rfl⟩ <;> rfl
  refine ⟨fun hreach => ?_, fun hout hoff => ?_, fun hout hon => ?_⟩
  · refine ⟨_, hexec.trans (State.storeS_of_reaches i n hreach), ?_, ?_, ?_, rfl⟩
    · exact ((frame_storeCommon s _ _).trans (frame_advance _ n)).mono (by rintro q (h | h) <;> simp [h])
    · exact Memory.word?_writeWord_same s.cm _ _
    · exact fun b => mem_insertAddress _ b s.written
  · have hnext := hexec.trans (State.storeS_of_not_inRange i n hout)
    rw [State.raise_rangeError_off (s := s.advance n) hoff] at hnext
    exact ⟨_, hnext, (frame_advance s n).trans (frame_setRangeErr _), rfl, rfl⟩
  · exact halts_of_rangeError (hexec.trans (State.storeS_of_not_inRange i n hout)) rfl hon

/-! ## Stores of vectors to Common Memory -/

/-- The effect of the first `n` stores of 071 and 073: of the elements sent to a word of the field the last stands there
(R81), those words are noted, and nothing else has changed. -/
structure StoredInField (s : State) (i : Reg) (rel : Nat → Addr) (n : Nat) (u : State) : Prop where
  frame : Frame s u fun q => q = .written ∨
    ∃ e b, e < n ∧ s.InRange (rel e) ∧ InWord (s.wordOf (rel e)) b ∧ q = .commonByte b
  status : u.st = s.st
  words : ∀ e, e < n → s.InRange (rel e) → (∀ d, e < d → d < n → rel d ≠ rel e) →
    Memory.word? u.cm (s.wordOf (rel e)) = some (s.elem i e)
  written : ∀ a, a ∈ u.written ↔ a ∈ s.written ∨ ∃ e, e < n ∧ s.InRange (rel e) ∧ a = s.wordOf (rel e)

section
variable {s u : State} {i : Reg} {rel : Nat → Addr} {n : Nat}

theorem StoredInField.zero : StoredInField s i rel 0 s :=
  ⟨.refl s _, rfl, nofun, fun _ => ⟨.inl, fun h => h.resolve_right fun ⟨_, he, _⟩ => absurd he (Nat.not_lt_zero _)⟩⟩

/-- An element outside the field goes nowhere (R71). -/
theorem StoredInField.succ_of_not_inRange (h : StoredInField s i rel n u) (hout : ¬ s.InRange (rel n)) :
    StoredInField s i rel (n + 1) u := by
  obtain ⟨hframe, hst, hwords, hwritten⟩ := h
  have hlt : ∀ e, e < n + 1 → s.InRange (rel e) → e < n := fun e he hin =>
    Nat.lt_of_le_of_ne (Nat.le_of_lt_succ he) fun heq => hout (heq ▸ hin)
  refine ⟨hframe.mono ?_, hst, fun e he hin hlast => ?_, fun a => (hwritten a).trans (or_congr_right ?_)⟩
  · rintro q (rfl | ⟨e, b, he, hb⟩)
    · exact .inl rfl
    · exact .inr ⟨e, b, Nat.lt_succ_of_lt he, hb⟩
  · exact hwords e (hlt e he hin) hin fun d hed hd => hlast d hed (Nat.lt_succ_of_lt hd)
  · exact exists_congr fun e => ⟨fun ⟨he, hin, ha⟩ => ⟨Nat.lt_succ_of_lt he, hin, ha⟩,
      fun ⟨he, hin, ha⟩ => ⟨hlt e he hin, hin, ha⟩⟩

/-- An element in the field replaces what was sent to its word before. -/
theorem StoredInField.succ_of_inRange (h : StoredInField s i rel n u) (hin : s.InRange (rel n)) :
    StoredInField s i rel (n + 1) (u.storeCommon (s.wordOf (rel n)) (s.elem i n)) := by
  obtain ⟨hframe, hst, hwords, hwritten⟩ := h
  refine ⟨(hframe.trans (frame_storeCommon u _ _)).mono ?_, hst, fun e he hine hlast => ?_, fun a => ?_⟩
  · rintro q ((rfl | ⟨e, b, he, hb⟩) | (rfl | ⟨b, hb, rfl⟩))
    · exact .inl rfl
    · exact .inr ⟨e, b, Nat.lt_succ_of_lt he, hb⟩
    · exact .inl rfl
    · exact .inr ⟨n, b, Nat.lt_succ_self n, hin, hb, rfl⟩
  · rw [State.storeCommon_cm]
    rcases Nat.lt_or_eq_of_le (Nat.le_of_lt_succ he) with hlt | rfl
    · have hne : rel n ≠ rel e := hlast n hlt (Nat.lt_succ_self n)
      rw [Memory.word?_writeWord_ne _ _ (mt State.wordOf_inj.1 hne.symm)]
      exact hwords e hlt hine fun d hed hd => hlast d hed (Nat.lt_succ_of_lt hd)
    · exact Memory.word?_writeWord_same _ _ _
  · rw [State.storeCommon_written, mem_insertAddress, hwritten]
    constructor
    · rintro (rfl | ha | ⟨e, he, hine, ha⟩)
      · exact .inr ⟨n, Nat.lt_succ_self n, hin, rfl⟩
      · exact .inl ha
      · exact .inr ⟨e, Nat.lt_succ_of_lt he, hine, ha⟩
    · rintro (ha | ⟨e, he, hine, rfl⟩)
      · exact .inr (.inl ha)
      · rcases Nat.lt_or_eq_of_le (Nat.le_of_lt_succ he) with hlt | rfl
        · exact .inr (.inr ⟨e, hlt, hine, rfl⟩)
        · exact .inl rfl

/-- The stores so far leave the field as it was, so that the next reference is the one it was at the start. -/
theorem StoredInField.commonWrite_next (h : StoredInField s i rel n u)
    (hn : ¬ s.InRange (rel n) ∨ s.Reaches (rel n)) :
    ∃ v, u.commonWrite (rel n) (s.elem i n) = .ok v ∧ StoredInField s i rel (n + 1) v := by
  have hba : u.ba = s.ba := h.frame .ba nofun
  have hla : u.la = s.la := h.frame .la nofun
  have hword : u.wordOf (rel n) = s.wordOf (rel n) := by simp only [State.wordOf, State.absolute, hba]
  have hrange : u.InRange (rel n) ↔ s.InRange (rel n) := by simp only [State.InRange, hba, hla, hword]
  rcases hn with hout | ⟨hin, hcm⟩
  · exact ⟨u, State.commonWrite_of_not_inRange _ (mt hrange.1 hout), h.succ_of_not_inRange hout⟩
  · refine ⟨_, State.commonWrite_of_inRange _ ⟨hrange.2 hin, hword ▸ hcm⟩, ?_⟩
    rw [hword]
    exact h.succ_of_inRange hin

end

/-- A vector store whose references are aborted or reach a word answers a next state. -/
theorem State.storeV_of_reaches {s : State} {i : Reg} {rel : Nat → Addr}
    (hall : ∀ e, e < s.vlen → ¬ s.InRange (rel e) ∨ s.Reaches (rel e)) :
    ∃ u, StoredInField s i rel s.vlen u ∧
      s.storeV i rel = .next ((u.advance 1).signal .rangeError (anyBelow (fun e => s.rangeBad (rel e)) s.vlen)) := by
  obtain ⟨u, hu, hstored⟩ := sequence_of_ok (f := fun e t => t.commonWrite (rel e) (s.elem i e)) (n := s.vlen)
    (P := StoredInField s i rel) .zero fun e _ he hP => hP.commonWrite_next (hall e he)
  exact ⟨u, hstored, by simp only [State.storeV, hu]⟩

/-- A vector store that does not halt stores its elements: one outside the field goes nowhere and sets the error bit
(R71, R82). -/
theorem storesElements_of_exec {x : Instr} {s u : State} {i : Reg} {rel : Nat → Addr}
    (hexec : exec x s = .next ((u.advance 1).signal .rangeError (anyBelow (fun e => s.rangeBad (rel e)) s.vlen)))
    (hu : StoredInField s i rel s.vlen u)
    (hgo : (∃ e, e < s.vlen ∧ ¬ s.InRange (rel e)) → s.st.enRangeHalt = false) :
    StoresElements x s i s.vlen rel := by
  obtain ⟨hframe, hst, hwords, hwritten⟩ := hu
  have hbad : anyBelow (fun e => s.rangeBad (rel e)) s.vlen = true ↔ ∃ e, e < s.vlen ∧ ¬ s.InRange (rel e) := by
    simp only [anyBelow_eq_true, State.not_inRange_iff]
  generalize anyBelow (fun e => s.rangeBad (rel e)) s.vlen = b at hexec hbad
  have hoff : b = true → (u.advance 1).st.enRangeHalt = false := fun h => hst ▸ hgo (hbad.1 h)
  have hsignal := frame_signal_rangeError hoff
  have hcm : ∀ a, Memory.word? ((u.advance 1).signal .rangeError b).cm a = Memory.word? u.cm a := fun _ =>
    Memory.word?_congr fun y _ _ => hsignal (.commonByte y) nofun
  have herr := rangeErr_signal_rangeError hoff
  rw [State.advance_st, hst, hbad] at herr
  refine ⟨_, hexec, ?_, ?_, ?_, herr, ?_⟩
  · refine ((hframe.trans (frame_advance u 1)).trans hsignal).mono ?_
    rintro q (((h | h) | h) | h)
    · exact .inr (.inr (.inl h))
    · exact .inr (.inr (.inr h))
    · exact .inl h
    · exact .inr (.inl h)
  · exact fun e he hin hlast => (hcm _).trans (hwords e he hin hlast)
  · exact fun a => (hsignal .written nofun : _ = u.written) ▸ hwritten a
  · exact (hsignal .p nofun).trans (congrArg (· + BitVec.ofNat 32 1) (hframe .p nofun))

/-- Settles O40: both instructions are `storeV`, at the addresses the statement names. -/
theorem vectorStores : Obligations.VectorStores := by
  intro s i j k x rel hx hall
  have hexec : exec x s = s.storeV i rel := by
    rcases hx with ⟨rfl, rfl⟩ | ⟨rfl, rfl⟩ <;> rfl
  obtain ⟨u, hu, hstore⟩ := State.storeV_of_reaches (i := i) hall
  refine ⟨fun hgo => ?_, fun hon ⟨e, he, hout⟩ => ?_⟩
  · refine storesElements_of_exec (hexec.trans hstore) hu ?_
    rintro ⟨e, he, hout⟩
    exact hgo.resolve_right fun hin => hout (hin e he)
  · have hbad : anyBelow (fun e => s.rangeBad (rel e)) s.vlen = true :=
      anyBelow_eq_true.2 ⟨e, he, State.not_inRange_iff.1 hout⟩
    rw [hbad] at hstore
    exact halts_of_rangeError (hexec.trans hstore) hu.status hon

end Sys2Proof.Machine

/-! # Proofs: fetches that fault (20_memory.md R72, R79; 10_state.md R56) -/

namespace Sys2Proof.Machine

/-- A running step ends in the fault of the fetch of its first parcel. -/
theorem step_of_fetchParcel_error {s : State} {f : Fault} (hrun : s.run = .running) (hfield : s.fieldOk = true)
    (h : s.fetchParcel s.p = .error f) : step s = .fault f := by
  simp only [step, hrun, if_pos hfield, State.fetch, h]

/-- The field test of a fetch is that of a reference to the parcel's word (R26, R72). -/
theorem State.inField_parcelWord {s : State} {p : Addr} : s.inField (s.parcelWord p) = true ↔ s.InRange (p >>> 2) := by
  simp [State.inRange_iff, State.rangeBad, State.parcelWord]

/-- A legal field ends in Common Memory, so that a reference in it reaches a word (R68, R462 LP1). -/
theorem State.InRange.reaches {s : State} {rel : Addr} (h : s.InRange rel) (hfield : s.fieldOk = true) :
    s.Reaches rel := by
  have hla : s.la.toNat ≤ Config.cmWords := by
    simp only [State.fieldOk, Bool.and_eq_true, decide_eq_true_eq] at hfield
    exact hfield.2
  exact ⟨h, Nat.lt_of_lt_of_le h.2 hla⟩

theorem State.fetchParcel_of_not_inRange {s : State} {p : Addr} (h : ¬ s.InRange (p >>> 2)) :
    s.fetchParcel p = .error .fetchRange := by
  have hfield : s.inField (s.parcelWord p) = false := Bool.eq_false_iff.2 (mt State.inField_parcelWord.1 h)
  simp only [State.fetchParcel, hfield]
  rfl

theorem State.fetchParcel_of_mem_written {s : State} {p : Addr} (h : s.Reaches (p >>> 2))
    (hnoted : s.wordOf (p >>> 2) ∈ s.written) : s.fetchParcel p = .error .staleInstruction := by
  have hfield := State.inField_parcelWord.2 h.1
  have hcm : ¬ Config.cmWords ≤ (s.parcelWord p).toNat := Nat.not_le.2 h.2
  have hnoted' : s.written.contains (s.parcelWord p).toNat = true := List.contains_iff_mem.2 hnoted
  simp only [State.fetchParcel, hfield, hcm, hnoted']
  rfl

theorem State.fetchParcel_of_no_word {s : State} {p : Addr} (h : s.Reaches (p >>> 2))
    (hnew : s.wordOf (p >>> 2) ∉ s.written) (hnone : Memory.word? s.cm (s.wordOf (p >>> 2)) = none) :
    s.fetchParcel p = .error .unwrittenFetch := by
  have hfield := State.inField_parcelWord.2 h.1
  have hcm : ¬ Config.cmWords ≤ (s.parcelWord p).toNat := Nat.not_le.2 h.2
  have hnew' : s.written.contains (s.parcelWord p).toNat = false :=
    Bool.eq_false_iff.2 (mt List.contains_iff_mem.1 hnew)
  have hnone' : Memory.word? s.cm (s.parcelWord p).toNat = none := hnone
  simp only [State.fetchParcel, hfield, hcm, hnew', hnone']
  rfl

/-- Settles O7: the three cases of the first parcel's word. -/
theorem fetchFaults : Obligations.FetchFaults := by
  intro s hrun hfield
  exact ⟨fun hout => step_of_fetchParcel_error hrun hfield (State.fetchParcel_of_not_inRange hout),
    fun hin hnoted =>
      step_of_fetchParcel_error hrun hfield (State.fetchParcel_of_mem_written (hin.reaches hfield) hnoted),
    fun hin hnew hnone =>
      step_of_fetchParcel_error hrun hfield (State.fetchParcel_of_no_word (hin.reaches hfield) hnew hnone)⟩

end Sys2Proof.Machine

/-! # Proofs: the field bounds what a step writes and reads (20_memory.md R69 to R73) -/

namespace Sys2Proof.Machine

/-! ## What a step writes -/

/-- A step that is not a halt executes an exit or an instruction that leaves the processor running. -/
theorem NoHalt.running_or_exit {s t : State} {l rest : List Parcel} {i : Instr} (h : NoHalt s t)
    (hrun : s.run = .running) (hfetch : s.fetch = .ok l) (hdecode : decode l = .ok (i, rest)) :
    t.run = .running ∨ ∃ jk, i = .exit jk ∨ i = .exitAlt jk := by
  refine (h hrun).imp_right ?_
  rintro ⟨jk, l', rest', i', hfetch', hdecode', hexit⟩
  cases hfetch.symm.trans hfetch'
  cases hdecode.symm.trans hdecode'
  exact ⟨jk, hexit⟩

/-- Every byte of Common Memory outside the words of the field of `s` is in `t` as it was. -/
def SameOutsideField (s t : State) : Prop :=
  ∀ a, ¬ (s.ba.toNat ≤ a ∧ a < s.la.toNat) → ∀ x, InWord a x → Memory.byte? t.cm x = Memory.byte? s.cm x

/-- A store of an instruction passes the field test, and so changes no byte of a word outside the field (R69, R71). -/
theorem Works.sameOutsideField {s t : State} (h : Works s t) : SameOutsideField s t := by
  induction h with
  | start => exact fun _ _ _ _ => rfl
  | @commonStore t rel v hin _ hw ih =>
    intro a ha x hx
    obtain ⟨hba, hla, -⟩ := hw.keeps
    rw [State.rangeBad_eq_false, hba, hla] at hin
    have hx' : ¬ InWord (t.absolute rel).toNat x := fun hx' => ha (hx.unique hx' ▸ hin)
    exact ((Memory.byte?_writeWord t.cm _ v x).trans (if_neg hx')).trans (ih a ha x hx)
  | _ => assumption

/-- What an instruction other than a halt leaves: an exit changes no memory, and any other has done its work and no more
than set an error bit (60_exceptions.md R421 to R423). -/
theorem exec_works_of_running_or_exit {x : Instr} {s t : State} (h : exec x s = .next t)
    (hgo : t.run = .running ∨ ∃ jk, x = .exit jk ∨ x = .exitAlt jk) :
    (∃ jk, t = s.raise (.exit jk)) ∨ ∃ u, Works s u ∧ (t = u ∨ t = u.setRangeErr ∨ t = u.setFloatErr) := by
  by_cases hx : ∃ jk, x = .exit jk ∨ x = .exitAlt jk
  · obtain ⟨jk, rfl | rfl⟩ := hx <;> cases h <;> exact .inl ⟨jk, rfl⟩
  · have hrun := hgo.resolve_right hx
    have he : Effect s t :=
      exec_effect_of_not_exit h fun jk => ⟨fun hjk => hx ⟨jk, .inl hjk⟩, fun hjk => hx ⟨jk, .inr hjk⟩⟩
    obtain ⟨u, v, hw, hv, rfl | rfl⟩ := he.parts
    · exact .inr ⟨u, hw, hv⟩
    · cases hrun.symm.trans v.halt_status.1

/-- Settles O18: a step that is not a halt changes Common Memory by the stores of its instruction only. -/
theorem stepWritesOnlyField : Obligations.StepWritesOnlyField := by
  intro s t a h hno
  rcases step_next h with ⟨-, rfl⟩ | ⟨hrun, -, l, i, rest, hfetch, hdecode, hexec⟩
  · exact fun _ _ _ => rfl
  · rcases exec_works_of_running_or_exit hexec (hno.running_or_exit hrun hfetch hdecode) with
      ⟨jk, rfl⟩ | ⟨u, hw, ht⟩
    · exact fun _ _ _ => rfl
    · have hu : SameOutsideField s u := hw.sameOutsideField
      rcases ht with rfl | rfl | rfl <;> exact hu a

/-! ## What a step reads

Two states that differ only in their Common Memories are followed through a step; `lo` and `hi` stay the bounds of the
field at its start. -/

/-- The memories hold the same in the words from `lo` up to `hi`. -/
def Memory.AgreeOn (lo hi : Nat) (m n : Memory) : Prop :=
  ∀ a, lo ≤ a → a < hi → Memory.word? m a = Memory.word? n a

/-- The state with another Common Memory. -/
def State.withCommon (s : State) (m : Memory) : State := { s with cm := m }

section
variable (s : State) (m : Memory)

@[simp] theorem State.withCommon_cm : (s.withCommon m).cm = m := rfl
@[simp] theorem State.withCommon_written : (s.withCommon m).written = s.written := rfl
@[simp] theorem State.withCommon_p : (s.withCommon m).p = s.p := rfl
@[simp] theorem State.withCommon_run : (s.withCommon m).run = s.run := rfl
@[simp] theorem State.fieldOk_withCommon : (s.withCommon m).fieldOk = s.fieldOk := rfl
@[simp] theorem State.absolute_withCommon (rel : Addr) : (s.withCommon m).absolute rel = s.absolute rel := rfl
@[simp] theorem State.inField_withCommon (a : Addr) : (s.withCommon m).inField a = s.inField a := rfl
@[simp] theorem State.rangeBad_withCommon (rel : Addr) : (s.withCommon m).rangeBad rel = s.rangeBad rel := rfl
@[simp] theorem State.parcelWord_withCommon (p : Addr) : (s.withCommon m).parcelWord p = s.parcelWord p := rfl

end

/-- `v` is `u` but for a Common Memory that agrees with that of `u` from `lo` up to `hi`. -/
def Twin (lo hi : Nat) (u v : State) : Prop := ∃ n, v = u.withCommon n ∧ Memory.AgreeOn lo hi n u.cm

/-- The answers are the same, but for what `Twin` allows in next states. -/
def TwinResults (lo hi : Nat) : Result → Result → Prop
  | .next t, r => ∃ t', r = .next t' ∧ Twin lo hi t t'
  | .fault f, r => r = .fault f
  | .refused x, r => r = .refused x

/-- The same of updates that may fault. -/
def TwinUpdates (lo hi : Nat) : Except Fault State → Except Fault State → Prop
  | .ok t, r => ∃ t', r = .ok t' ∧ Twin lo hi t t'
  | .error f, r => r = .error f

theorem Memory.AgreeOn.writeWord {lo hi : Nat} {m n : Memory} (h : Memory.AgreeOn lo hi m n) (a : Nat) (v : Word) :
    Memory.AgreeOn lo hi (Memory.writeWord m a v) (Memory.writeWord n a v) := by
  intro b hlo hhi
  rw [Memory.word?_writeWord, Memory.word?_writeWord, h b hlo hhi]

/-! ### Events -/

section
variable {lo hi : Nat}

/-- An update that neither reads nor changes Common Memory does the same to both states. -/
theorem Twin.map {u v : State} (h : Twin lo hi u v) (f : State → State)
    (hf : ∀ w n, f (w.withCommon n) = (f w).withCommon n) (hcm : ∀ w, (f w).cm = w.cm) : Twin lo hi (f u) (f v) := by
  obtain ⟨n, rfl, hn⟩ := h
  exact ⟨n, hf u n, (hcm u).symm ▸ hn⟩

theorem Twin.storeCommon {u v : State} (h : Twin lo hi u v) (a : Nat) (x : Word) :
    Twin lo hi (u.storeCommon a x) (v.storeCommon a x) := by
  obtain ⟨n, rfl, hn⟩ := h
  exact ⟨_, rfl, hn.writeWord a x⟩

theorem Twin.foldl {α : Type} {f : State → α → State} (hf : ∀ u v x, Twin lo hi u v → Twin lo hi (f u x) (f v x))
    (l : List α) {u v : State} (h : Twin lo hi u v) : Twin lo hi (l.foldl f u) (l.foldl f v) := by
  induction l generalizing u v with
  | nil => exact h
  | cons x l ih => exact ih (hf u v x h)

/-- The stores that a halt leaves free are the same from both states (60_exceptions.md R427, entry 14). -/
theorem Twin.lateMemory {u v : State} (h : Twin lo hi u v) : Twin lo hi u.lateMemory v.lateMemory := by
  obtain ⟨n, rfl, hn⟩ := h
  refine Twin.foldl (fun _ _ x hx => hx.storeCommon x.1.toNat x.2) _ ?_
  refine Twin.foldl (fun _ _ x hx => ?_) _ ⟨n, rfl, hn⟩
  exact hx.map (·.storeLocal x.1.toNat x.2) (fun _ _ => rfl) fun _ => rfl

theorem Twin.halt {u v : State} (h : Twin lo hi u v) : Twin lo hi u.halt v.halt := by
  obtain ⟨n, rfl, hn⟩ := h
  obtain ⟨m, heq, hm⟩ := Twin.lateMemory (u := u) ⟨n, rfl, hn⟩
  refine ⟨m, ?_, hm⟩
  simp only [State.halt, heq]
  rfl

theorem Twin.raise {u v : State} (h : Twin lo hi u v) (e : Event) : Twin lo hi (u.raise e) (v.raise e) := by
  obtain ⟨n, rfl, hn⟩ := h
  have hrange : Twin lo hi u.setRangeErr (u.withCommon n).setRangeErr := ⟨n, rfl, hn⟩
  have hfloat : Twin lo hi u.setFloatErr (u.withCommon n).setFloatErr := ⟨n, rfl, hn⟩
  cases e with
  | exit code => exact ⟨n, rfl, hn⟩
  | rangeError =>
    cases hen : u.st.enRangeHalt with
    | false =>
      rw [State.raise_rangeError_off hen, State.raise_rangeError_off (s := u.withCommon n) hen]
      exact hrange
    | true =>
      rw [State.raise_rangeError_on hen, State.raise_rangeError_on (s := u.withCommon n) hen]
      exact hrange.halt
  | floatError =>
    cases hen : u.st.enFloatHalt with
    | false =>
      rw [State.raise_floatError_off hen, State.raise_floatError_off (s := u.withCommon n) hen]
      exact ⟨n, rfl, hn⟩
    | true =>
      rw [State.raise_floatError_on hen, State.raise_floatError_on (s := u.withCommon n) hen]
      exact hfloat.halt

theorem Twin.signal {u v : State} (h : Twin lo hi u v) (e : Event) (b : Bool) :
    Twin lo hi (u.signal e b) (v.signal e b) := by
  cases b with
  | false => exact h
  | true => exact h.raise e

theorem Twin.advance {u v : State} (h : Twin lo hi u v) (n : Nat) : Twin lo hi (u.advance n) (v.advance n) :=
  h.map (·.advance n) (fun _ _ => rfl) fun _ => rfl

/-! ### Stores -/

/-- In a field that is not legal a reference can lie past Common Memory (R68, entry 30). -/
theorem State.commonWrite_of_not_lt {s : State} {rel : Addr} (v : Word) (hbad : s.rangeBad rel = false)
    (hc : ¬ (s.absolute rel).toNat < Config.cmWords) : s.commonWrite rel v = .error .commonAddress := by
  simp only [State.commonWrite, hbad, if_neg hc]
  rfl

/-- A store asks for BA and LA, which are the same in both states, and reads no memory. -/
theorem Twin.commonWrite {u v : State} (h : Twin lo hi u v) (rel : Addr) (x : Word) :
    TwinUpdates lo hi (u.commonWrite rel x) (v.commonWrite rel x) := by
  obtain ⟨n, rfl, hn⟩ := h
  cases hbad : u.rangeBad rel with
  | true =>
    rw [State.commonWrite_of_bad x hbad, State.commonWrite_of_bad (s := u.withCommon n) x hbad]
    exact ⟨_, rfl, n, rfl, hn⟩
  | false =>
    by_cases hc : (u.absolute rel).toNat < Config.cmWords
    · rw [State.commonWrite_of_reaches x hbad hc, State.commonWrite_of_reaches (s := u.withCommon n) x hbad hc]
      exact ⟨_, rfl, Twin.storeCommon ⟨n, rfl, hn⟩ _ x⟩
    · rw [State.commonWrite_of_not_lt x hbad hc, State.commonWrite_of_not_lt (s := u.withCommon n) x hbad hc]
      exact rfl

theorem Twin.localWrite {u v : State} (h : Twin lo hi u v) (a : Nat) (x : Word) :
    TwinUpdates lo hi (u.localWrite a x) (v.localWrite a x) := by
  obtain ⟨n, rfl, hn⟩ := h
  unfold State.localWrite
  split
  · exact rfl
  · exact ⟨_, rfl, n, rfl, hn⟩

/-- The references of a stream are the same in both states (20_memory.md R81). -/
theorem TwinUpdates.of_sequence {f : Nat → State → Except Fault State}
    (hf : ∀ e u v, Twin lo hi u v → TwinUpdates lo hi (f e u) (f e v)) (n : Nat) {u v : State}
    (h : Twin lo hi u v) : TwinUpdates lo hi (sequence f n u) (sequence f n v) := by
  induction n with
  | zero => exact ⟨v, rfl, h⟩
  | succ n ih =>
    simp only [sequence]
    cases hu : sequence f n u with
    | error x =>
      have hv : sequence f n v = .error x := by rwa [hu] at ih
      rw [hv]
      exact rfl
    | ok t =>
      rw [hu] at ih
      obtain ⟨t', hv, ht⟩ := ih
      rw [hv]
      exact hf n t t' ht

/-! ### Answers -/

/-- The answer of a meaning that faults as `r` does and else goes on with what `r` answers. -/
def answer {α : Type} (r : Except Fault α) (k : α → State) : Result :=
  match r with
  | .error f => .fault f
  | .ok a => .next (k a)

/-- After a read of the same in both states. -/
theorem TwinResults.of_read {α : Type} (r : Except Fault α) {k k' : α → State} (hk : ∀ a, Twin lo hi (k a) (k' a)) :
    TwinResults lo hi (answer r k) (answer r k') := by
  cases r with
  | error f => exact rfl
  | ok a => exact ⟨k' a, rfl, hk a⟩

theorem TwinUpdates.results {r r' : Except Fault State} (h : TwinUpdates lo hi r r') {k k' : State → State}
    (hk : ∀ t t', Twin lo hi t t' → Twin lo hi (k t) (k' t')) :
    TwinResults lo hi (answer r k) (answer r' k') := by
  cases r with
  | error f =>
    cases (h : r' = .error f)
    exact rfl
  | ok t =>
    obtain ⟨t', rfl, ht⟩ := h
    exact ⟨k' t', rfl, hk t t' ht⟩

theorem TwinResults.of_next {t : State} {m : Memory} (h : Memory.AgreeOn lo hi m t.cm) :
    TwinResults lo hi (.next t) (.next (t.withCommon m)) := ⟨_, rfl, m, rfl, h⟩

theorem TwinResults.of_signal {t : State} {m : Memory} (h : Memory.AgreeOn lo hi m t.cm) (e : Event) (b : Bool) :
    TwinResults lo hi (.next (t.signal e b)) (.next ((t.withCommon m).signal e b)) :=
  ⟨_, rfl, Twin.signal ⟨m, rfl, h⟩ e b⟩

theorem TwinResults.of_branch {t : State} {m : Memory} (h : Memory.AgreeOn lo hi m t.cm) (b : Bool) (c : Addr) :
    TwinResults lo hi (.next (t.branch b c)) (.next ((t.withCommon m).branch b c)) := by
  cases b <;> exact ⟨_, rfl, m, rfl, h⟩

end

/-! ### References in the field -/

section
variable {s : State} {m : Memory}

/-- An operand read goes to a word of the field, or is aborted without a read (R69, R70). -/
theorem State.commonRead_withCommon (h : Memory.AgreeOn s.ba.toNat s.la.toNat m s.cm) (rel : Addr) :
    (s.withCommon m).commonRead rel = s.commonRead rel := by
  cases hbad : s.rangeBad rel with
  | true => rw [State.commonRead_of_bad hbad, State.commonRead_of_bad (s := s.withCommon m) hbad]
  | false =>
    obtain ⟨hba, hla⟩ := State.rangeBad_eq_false.1 hbad
    simp only [State.commonRead, State.rangeBad_withCommon, State.absolute_withCommon, State.withCommon_cm,
      h _ hba hla]

/-- A fetch that passes the field test goes to a word of the field (R72). -/
theorem State.fetchParcel_withCommon (h : Memory.AgreeOn s.ba.toNat s.la.toNat m s.cm) (p : Addr) :
    (s.withCommon m).fetchParcel p = s.fetchParcel p := by
  by_cases hin : s.InRange (p >>> 2)
  · have hword : Memory.word? m (s.parcelWord p).toNat = Memory.word? s.cm (s.parcelWord p).toNat :=
      h _ hin.1 hin.2
    simp only [State.fetchParcel, State.inField_withCommon, State.parcelWord_withCommon, State.withCommon_written,
      State.withCommon_cm, hword]
  · rw [State.fetchParcel_of_not_inRange hin, State.fetchParcel_of_not_inRange (s := s.withCommon m) hin]

theorem State.fetchParcels_withCommon (h : Memory.AgreeOn s.ba.toNat s.la.toNat m s.cm) (n : Nat) (p : Addr) :
    (s.withCommon m).fetchParcels n p = s.fetchParcels n p := by
  induction n generalizing p with
  | zero => rfl
  | succ n ih => simp only [State.fetchParcels, State.fetchParcel_withCommon h, ih]

theorem State.fetch_withCommon (h : Memory.AgreeOn s.ba.toNat s.la.toNat m s.cm) :
    (s.withCommon m).fetch = s.fetch := by
  simp only [State.fetch, State.withCommon_p, State.fetchParcel_withCommon h, State.fetchParcels_withCommon h]

end

/-! ### The shared meanings as answers -/

section
variable (s : State)

theorem State.localToA_eq_answer (i : Reg) (a n : Nat) :
    s.localToA i a n = answer (s.localRead a) fun w => (s.setA i (lowHalf w)).advance n := by
  unfold State.localToA answer
  cases s.localRead a <;> rfl

theorem State.localToS_eq_answer (i : Reg) (a n : Nat) :
    s.localToS i a n = answer (s.localRead a) fun w => (s.setS i w).advance n := by
  unfold State.localToS answer
  cases s.localRead a <;> rfl

theorem State.toLocal_eq_answer (a : Nat) (w : Word) (n : Nat) :
    s.toLocal a w n = answer (s.localWrite a w) (·.advance n) := by
  unfold State.toLocal answer
  cases s.localWrite a w <;> rfl

theorem execLoadVLocal_eq_answer (i k : Reg) :
    execLoadVLocal i k s = answer (collect (fun e => s.localRead (s.localStream k e)) s.vlen) fun l =>
      (s.setV i s.vlen fun e => l.getD e 0).advance 1 := by
  unfold execLoadVLocal answer
  cases collect (fun e => s.localRead (s.localStream k e)) s.vlen <;> rfl

theorem execStoreVLocal_eq_answer (i k : Reg) :
    execStoreVLocal i k s =
      answer (sequence (fun e t => t.localWrite (s.localStream k e) (s.elem i e)) s.vlen s) (·.advance 1) := by
  unfold execStoreVLocal answer
  cases sequence (fun e t => t.localWrite (s.localStream k e) (s.elem i e)) s.vlen s <;> rfl

theorem State.loadS_eq_answer (i : Reg) (rel : Addr) (n : Nat) :
    s.loadS i rel n = answer (s.commonRead rel) fun w =>
      ((s.setS i w).advance n).signal .rangeError (s.rangeBad rel) := by
  unfold State.loadS answer
  cases s.commonRead rel <;> rfl

theorem State.storeS_eq_answer (i : Reg) (rel : Addr) (n : Nat) :
    s.storeS i rel n = answer (s.commonWrite rel (s.getS i)) fun t =>
      (t.advance n).signal .rangeError (s.rangeBad rel) := by
  unfold State.storeS answer
  cases s.commonWrite rel (s.getS i) <;> rfl

theorem State.loadV_eq_answer (i : Reg) (rel : Nat → Addr) :
    s.loadV i rel = answer (collect (fun e => s.commonRead (rel e)) s.vlen) fun l =>
      ((s.setV i s.vlen fun e => l.getD e 0).advance 1).signal .rangeError
        (anyBelow (fun e => s.rangeBad (rel e)) s.vlen) := by
  unfold State.loadV answer
  cases collect (fun e => s.commonRead (rel e)) s.vlen <;> rfl

theorem State.storeV_eq_answer (i : Reg) (rel : Nat → Addr) :
    s.storeV i rel = answer (sequence (fun e t => t.commonWrite (rel e) (s.elem i e)) s.vlen s) fun t =>
      (t.advance 1).signal .rangeError (anyBelow (fun e => s.rangeBad (rel e)) s.vlen) := by
  unfold State.storeV answer
  cases sequence (fun e t => t.commonWrite (rel e) (s.elem i e)) s.vlen s <;> rfl

end

/-! ### Instructions -/

section
variable {s : State} {m : Memory} {lo hi : Nat}

theorem twin_localToA (h : Memory.AgreeOn lo hi m s.cm) (i : Reg) (a n : Nat) :
    TwinResults lo hi (s.localToA i a n) ((s.withCommon m).localToA i a n) := by
  rw [State.localToA_eq_answer, State.localToA_eq_answer]
  exact .of_read (s.localRead a) fun _ => ⟨m, rfl, h⟩

theorem twin_localToS (h : Memory.AgreeOn lo hi m s.cm) (i : Reg) (a n : Nat) :
    TwinResults lo hi (s.localToS i a n) ((s.withCommon m).localToS i a n) := by
  rw [State.localToS_eq_answer, State.localToS_eq_answer]
  exact .of_read (s.localRead a) fun _ => ⟨m, rfl, h⟩

theorem twin_toLocal (h : Memory.AgreeOn lo hi m s.cm) (a : Nat) (w : Word) (n : Nat) :
    TwinResults lo hi (s.toLocal a w n) ((s.withCommon m).toLocal a w n) := by
  rw [State.toLocal_eq_answer, State.toLocal_eq_answer]
  exact (Twin.localWrite ⟨m, rfl, h⟩ a w).results fun _ _ ht => ht.advance n

theorem twin_loadVLocal (h : Memory.AgreeOn lo hi m s.cm) (i k : Reg) :
    TwinResults lo hi (execLoadVLocal i k s) (execLoadVLocal i k (s.withCommon m)) := by
  rw [execLoadVLocal_eq_answer, execLoadVLocal_eq_answer]
  exact .of_read (collect (fun e => s.localRead (s.localStream k e)) s.vlen) fun _ => ⟨m, rfl, h⟩

theorem twin_storeVLocal (h : Memory.AgreeOn lo hi m s.cm) (i k : Reg) :
    TwinResults lo hi (execStoreVLocal i k s) (execStoreVLocal i k (s.withCommon m)) := by
  rw [execStoreVLocal_eq_answer, execStoreVLocal_eq_answer]
  exact (TwinUpdates.of_sequence (f := fun e t => t.localWrite (s.localStream k e) (s.elem i e))
    (fun _ _ _ ht => ht.localWrite _ _) s.vlen ⟨m, rfl, h⟩).results fun _ _ ht => ht.advance 1

theorem twin_storeS (h : Memory.AgreeOn lo hi m s.cm) (i : Reg) (rel : Addr) (n : Nat) :
    TwinResults lo hi (s.storeS i rel n) ((s.withCommon m).storeS i rel n) := by
  rw [State.storeS_eq_answer, State.storeS_eq_answer]
  exact (Twin.commonWrite ⟨m, rfl, h⟩ rel (s.getS i)).results fun _ _ ht => (ht.advance n).signal .rangeError _

theorem twin_storeV (h : Memory.AgreeOn lo hi m s.cm) (i : Reg) (rel : Nat → Addr) :
    TwinResults lo hi (s.storeV i rel) ((s.withCommon m).storeV i rel) := by
  rw [State.storeV_eq_answer, State.storeV_eq_answer]
  exact (TwinUpdates.of_sequence (f := fun e t => t.commonWrite (rel e) (s.elem i e))
    (fun _ _ _ ht => ht.commonWrite _ _) s.vlen ⟨m, rfl, h⟩).results fun _ _ ht => (ht.advance 1).signal .rangeError _

theorem twin_floatS (h : Memory.AgreeOn lo hi m s.cm) (i : Reg) (x : Word × Bool) :
    TwinResults lo hi (s.floatS i x) ((s.withCommon m).floatS i x) :=
  .of_signal (t := (s.setS i x.1).advance 1) h .floatError x.2

theorem twin_floatV (h : Memory.AgreeOn lo hi m s.cm) (i : Reg) (f : Nat → Word × Bool) :
    TwinResults lo hi (s.floatV i f) ((s.withCommon m).floatV i f) :=
  .of_signal (t := (s.setV i s.vlen fun e => (f e).1).advance 1) h .floatError (anyBelow (fun e => (f e).2) s.vlen)

end

section
variable {s : State} {m : Memory} (h : Memory.AgreeOn s.ba.toNat s.la.toNat m s.cm)
include h

theorem twin_loadS (i : Reg) (rel : Addr) (n : Nat) :
    TwinResults s.ba.toNat s.la.toNat (s.loadS i rel n) ((s.withCommon m).loadS i rel n) := by
  rw [State.loadS_eq_answer, State.loadS_eq_answer, State.commonRead_withCommon h]
  exact .of_read (s.commonRead rel) fun w =>
    Twin.signal (u := (s.setS i w).advance n) ⟨m, rfl, h⟩ .rangeError (s.rangeBad rel)

theorem twin_loadV (i : Reg) (rel : Nat → Addr) :
    TwinResults s.ba.toNat s.la.toNat (s.loadV i rel) ((s.withCommon m).loadV i rel) := by
  rw [State.loadV_eq_answer, State.loadV_eq_answer, funext fun e => State.commonRead_withCommon h (rel e)]
  exact .of_read (collect (fun e => s.commonRead (rel e)) s.vlen) fun l =>
    Twin.signal (u := (s.setV i s.vlen fun e => l.getD e 0).advance 1) ⟨m, rfl, h⟩ .rangeError _

/-- An instruction gives the same from both states: where it reads Common Memory it does so in the field, and nothing it
computes from depends on Common Memory elsewhere. The arms not named make updates without an event. -/
theorem exec_twin (x : Instr) :
    TwinResults s.ba.toNat s.la.toNat (exec x s) (exec x (s.withCommon m)) := by
  cases x with
  | jumpSemClear c => exact .of_branch (t := s.takeSem) h _ c
  | jumpSemSet c => exact .of_branch (t := s.takeSem) h _ c
  | jumpAZero rk c => exact .of_branch h _ c
  | jumpANonzero rk c => exact .of_branch h _ c
  | jumpAPositive rk c => exact .of_branch h _ c
  | jumpANegative rk c => exact .of_branch h _ c
  | jumpSZero rj c => exact .of_branch h _ c
  | jumpSNonzero rj c => exact .of_branch h _ c
  | jumpSPositive rj c => exact .of_branch h _ c
  | jumpSNegative rj c => exact .of_branch h _ c
  | unspecified035 rk => exact rfl
  | loadALocal ri c => exact twin_localToA h ri _ _
  | storeALocal rk c => exact twin_toLocal h _ _ _
  | loadALocalReg ri rk => exact twin_localToA h ri _ _
  | storeALocalReg rj rk => exact twin_toLocal h _ _ _
  | loadSLocal ri c => exact twin_localToS h ri _ _
  | storeSLocal rj c => exact twin_toLocal h _ _ _
  | loadSLocalReg ri rk => exact twin_localToS h ri _ _
  | storeSLocalReg ri rk => exact twin_toLocal h _ _ _
  | loadSIndexed ri rj rk => exact twin_loadS h ri _ _
  | storeSIndexed ri rj rk => exact twin_storeS h ri _ _
  | loadSReg ri rk => exact twin_loadS h ri _ _
  | storeSReg ri rk => exact twin_storeS h ri _ _
  | loadSDisp ri rk c => exact twin_loadS h ri _ _
  | storeSDisp ri rk c => exact twin_storeS h ri _ _
  | loadSDirect ri c => exact twin_loadS h ri _ _
  | storeSDirect ri c => exact twin_storeS h ri _ _
  | loadVStride ri rj rk => exact twin_loadV h ri _
  | storeVStride ri rj rk => exact twin_storeV h ri _
  | gatherV ri rj rk => exact twin_loadV h ri _
  | scatterV ri rj rk => exact twin_storeV h ri _
  | loadVLocal ri rk => exact twin_loadVLocal h ri rk
  | storeVLocal ri rk => exact twin_storeVLocal h ri rk
  | unspecified106Low ri rj rk => exact rfl
  | unspecified106High ri rj rk => exact rfl
  | faddS ri rj rk => exact twin_floatS h ri _
  | fsubS ri rj rk => exact twin_floatS h ri _
  | fixS ri rk => exact twin_floatS h ri _
  | fmulS ri rj rk => exact twin_floatS h ri _
  | fmulSAlt ri rj rk => exact twin_floatS h ri _
  | recipIterS ri rj rk => exact twin_floatS h ri _
  | sqrtIterS ri rj rk => exact twin_floatS h ri _
  | recipS ri rj => exact twin_floatS h ri _
  | rsqrtS ri rj => exact twin_floatS h ri _
  | fmulSV ri rj rk => exact twin_floatV h ri _
  | fmulVV ri rj rk => exact twin_floatV h ri _
  | recipIterVV ri rj rk => exact twin_floatV h ri _
  | sqrtIterVV ri rj rk => exact twin_floatV h ri _
  | unspecified164Low ri rj rk => exact rfl
  | unspecified164High ri rj rk => exact rfl
  | recipV ri rk => exact twin_floatV h ri _
  | rsqrtV ri rk => exact twin_floatV h ri _
  | faddSV ri rj rk => exact twin_floatV h ri _
  | faddVV ri rj rk => exact twin_floatV h ri _
  | fsubSV ri rj rk => exact twin_floatV h ri _
  | fsubVV ri rj rk => exact twin_floatV h ri _
  | fixV ri rk => exact twin_floatV h ri _
  | _ => exact .of_next h

end

/-- A step gives the same from both states: it fetches the same parcels, and so runs the same instruction. -/
theorem step_twin {s : State} {m : Memory} (h : Memory.AgreeOn s.ba.toNat s.la.toNat m s.cm) :
    TwinResults s.ba.toNat s.la.toNat (step s) (step (s.withCommon m)) := by
  simp only [step, State.withCommon_run, State.fieldOk_withCommon, State.fetch_withCommon h]
  cases s.run with
  | idle => exact .of_next (t := s.tick) h
  | running =>
    dsimp only
    split
    · cases s.fetch with
      | error f => exact rfl
      | ok l =>
        dsimp only
        cases decode l with
        | error e => exact rfl
        | ok y => exact exec_twin (s := s.tick.fill l.length) h y.1
    · exact rfl

/-- Settles O19: `step_twin` in each case of what the first state answers. -/
theorem stepReadsOnlyField : Obligations.StepReadsOnlyField := by
  intro s m h
  have htwin := step_twin (s := s) (m := m) h
  refine ⟨fun t ht => ?_, fun f hf => ?_, fun r hr => ?_⟩
  · rw [ht] at htwin
    obtain ⟨-, hnext, n, rfl, hn⟩ := htwin
    exact ⟨n, hnext, hn⟩
  · rwa [hf] at htwin
  · rwa [hr] at htwin

end Sys2Proof.Machine

/-! # Proofs: the encoding (30_encoding.md)

A parcel is put together from its four fields (R101), so a fact about a first parcel is one about an operation code and
three designators. With the operation code a literal the tables `decodeParcels`, `encode` and `usedBits` compute, and
the rows are compared by evaluation; what does not compute is a constant or the field jk split into its parts and put
together again, and the choice by k of 035, 106 and 164 (R109). -/

namespace Sys2Proof

/-! ## A first parcel and its fields (R101) -/

theorem firstParcel_fields (p : Parcel) : firstParcel (opcodeOf p) (fieldI p) (fieldJ p) (fieldK p) = p := by
  ext n hn
  simp only [opcodeOf, fieldI, fieldJ, fieldK, firstParcel]
  grind

@[simp] theorem fieldJK_firstParcel (f : BitVec 7) (i j k : Reg) : fieldJK (firstParcel f i j k) = j ++ k := by
  ext n hn
  simp only [fieldJK, firstParcel]
  grind

@[simp] theorem firstParcelJK_append (f : BitVec 7) (i j k : Reg) :
    firstParcelJK f i (j ++ k) = firstParcel f i j k := by
  ext n hn
  simp only [firstParcelJK, firstParcel]
  grind

theorem firstParcel_and (f g : BitVec 7) (i j k a b c : Reg) :
    firstParcel f i j k &&& firstParcel g a b c = firstParcel (f &&& g) (i &&& a) (j &&& b) (k &&& c) := by
  unfold firstParcel
  rw [← BitVec.and_append, ← BitVec.and_append, ← BitVec.and_append]

/-! ## Constants (R104) -/

@[simp] theorem parcels32_constant32 (m1 m2 : Parcel) : parcels32 (constant32 m1 m2) = [m1, m2] := by
  unfold parcels32 constant32
  rw [BitVec.extractLsb'_append_eq_left, BitVec.extractLsb'_append_eq_right]

@[simp] theorem parcels64_constant64 (m1 m2 m3 m4 : Parcel) :
    parcels64 (constant64 m1 m2 m3 m4) = [m1, m2, m3, m4] := by
  unfold parcels64 constant64
  congr <;> ext n hn <;> grind

/-! ## The length of an instruction (R103) -/

theorem parcelCount_of_opcodeOf {p : Parcel} {f : BitVec 7} (h : opcodeOf p = f) :
    parcelCount p = parcelCount (firstParcel f 0 0 0) :=
  parcelCount_congr (by rw [h, opcodeOf_firstParcel])

theorem parcelCount_le_five (p : Parcel) : parcelCount p ≤ 5 := by
  unfold parcelCount
  split <;> decide

/-- `Laws.EncodedLength`, for every instruction. -/
theorem length_encode (x : Instr) : (encode x).length = x.parcels := by
  cases x <;> rfl

/-! ## The operation codes that take their operation from k (R109) -/

theorem four_le_reg_iff {k : Reg} : 4 ≤ k ↔ k ≠ 0 ∧ k ≠ 1 ∧ ¬(k = 2 ∨ k = 3) := by
  decide +revert

theorem two_le_reg_iff {k : Reg} : 2 ≤ k.toNat ↔ (k = 2 ∨ k = 3) ∨ 4 ≤ k := by
  decide +revert

theorem decode035_unspecified {k : Reg} (h : 4 ≤ k) : decode035 k = .unspecified035 k := by
  obtain ⟨h0, h1, h23⟩ := four_le_reg_iff.1 h
  obtain ⟨h2, h3⟩ := not_or.1 h23
  rw [decode035, if_neg h0, if_neg h1, if_neg h2, if_neg h3]

theorem decode106_low (i j : Reg) {k : Reg} (h : k = 2 ∨ k = 3) : decode106 i j k = .unspecified106Low i j k := by
  rcases h with rfl | rfl <;> rfl

theorem decode106_high (i j : Reg) {k : Reg} (h : 4 ≤ k) : decode106 i j k = .unspecified106High i j k := by
  obtain ⟨h0, h1, h23⟩ := four_le_reg_iff.1 h
  rw [decode106, if_neg h0, if_neg h1, if_neg h23]

theorem decode164_low (i j : Reg) {k : Reg} (h : k = 2 ∨ k = 3) : decode164 i j k = .unspecified164Low i j k := by
  rcases h with rfl | rfl <;> rfl

theorem decode164_high (i j : Reg) {k : Reg} (h : 4 ≤ k) : decode164 i j k = .unspecified164High i j k := by
  obtain ⟨h0, h1, h23⟩ := four_le_reg_iff.1 h
  rw [decode164, if_neg h0, if_neg h1, if_neg h23]

theorem encode_decode035 (k : Reg) : encode (decode035 k) = [firstParcel 0o035 0 0 k] := by
  unfold decode035
  split_ifs <;> subst_vars <;> rfl

theorem encode_decode106 (i j k : Reg) : encode (decode106 i j k) = [firstParcel 0o106 i j k] := by
  unfold decode106
  split_ifs <;> subst_vars <;> rfl

theorem encode_decode164 (i j k : Reg) : encode (decode164 i j k) = [firstParcel 0o164 i j k] := by
  unfold decode164
  split_ifs <;> subst_vars <;> rfl

theorem decode035_wellFormed (k : Reg) : (decode035 k).wellFormed = true := by
  decide +revert

theorem decode106_wellFormed (i j k : Reg) : (decode106 i j k).wellFormed = true := by
  unfold decode106
  split_ifs with h0 h1 h23
  · rfl
  · rfl
  · exact decide_eq_true h23
  · exact decide_eq_true (four_le_reg_iff.2 ⟨h0, h1, h23⟩)

theorem decode164_wellFormed (i j k : Reg) : (decode164 i j k).wellFormed = true := by
  unfold decode164
  split_ifs with h0 h1 h23
  · rfl
  · rfl
  · exact decide_eq_true h23
  · exact decide_eq_true (four_le_reg_iff.2 ⟨h0, h1, h23⟩)

/-! ## Decoding what was encoded

One rule for each length: the first parcel decides the length, and the instruction is made of the constant that the
parcels after it hold. -/

theorem decode_one {p : Parcel} {x : Instr} (rest : List Parcel) (hn : parcelCount p = 1)
    (hx : ∀ m1 m2 m3 m4, decodeParcels p m1 m2 m3 m4 = x) : decode ([p] ++ rest) = .ok (x, rest) := by
  rw [List.singleton_append, decode_cons_of_le (by omega), hx, hn]
  rfl

theorem decode_two {p c : Parcel} {x : Parcel → Instr} (rest : List Parcel) (hn : parcelCount p = 2)
    (hx : ∀ m1 m2 m3 m4, decodeParcels p m1 m2 m3 m4 = x m1) : decode ([p, c] ++ rest) = .ok (x c, rest) := by
  rw [List.cons_append, decode_cons_of_le (by simp [hn]), hx, hn]
  rfl

theorem decode_three {p : Parcel} {c : Addr} {x : Addr → Instr} (rest : List Parcel) (hn : parcelCount p = 3)
    (hx : ∀ m1 m2 m3 m4, decodeParcels p m1 m2 m3 m4 = x (constant32 m1 m2)) :
    decode ((p :: parcels32 c) ++ rest) = .ok (x c, rest) := by
  rw [List.cons_append, decode_cons_of_le (by simp [hn, parcels32]), hx, hn]
  exact congrArg (fun c => Except.ok (x c, rest)) (constant32_parcels c)

theorem decode_five {p : Parcel} {c : Word} {x : Word → Instr} (rest : List Parcel) (hn : parcelCount p = 5)
    (hx : ∀ m1 m2 m3 m4, decodeParcels p m1 m2 m3 m4 = x (constant64 m1 m2 m3 m4)) :
    decode ((p :: parcels64 c) ++ rest) = .ok (x c, rest) := by
  rw [List.cons_append, decode_cons_of_le (by simp [hn, parcels64]), hx, hn]
  exact congrArg (fun c => Except.ok (x c, rest)) (constant64_parcels c)

/-- Settles O1: by cases on the instruction, grouped by form (jk, two, three and five parcels, the rest). With the
fields of the first parcel read off, `decodeParcels` computes the instruction; only the unspecified encodings need
that they are well formed. -/
theorem decodeEncode : Obligations.DecodeEncode := by
  intro x hwf rest
  cases x
  case exit | exitAlt | shortPosA | shortNegA | shiftLeftS | shiftRightS | shortPosS | shortNegS =>
    refine decode_one rest (parcelCount_of_opcodeOf (opcodeOf_firstParcelJK ..)) fun m1 m2 m3 m4 => ?_
    unfold decodeParcels
    rw [opcodeOf_firstParcelJK, fieldI_firstParcelJK, fieldJK_firstParcelJK]
    rfl
  case' parcelPosA | parcelNegA | loadALocal | storeALocal | loadSLocal | storeSLocal =>
    refine decode_two rest (parcelCount_of_opcodeOf (opcodeOf_firstParcel ..)) fun m1 m2 m3 m4 => ?_
  case' jump | jumpSemClear | jumpSemSet | jumpAZero | jumpANonzero | jumpAPositive | jumpANegative | jumpSZero
      | jumpSNonzero | jumpSPositive | jumpSNegative | halfA | halfAAlt | halfPosS | halfNegS | leftS | loadSDisp
      | storeSDisp | loadSDirect | storeSDirect =>
    refine decode_three rest (parcelCount_of_opcodeOf (opcodeOf_firstParcel ..)) fun m1 m2 m3 m4 => ?_
  case' fullS => refine decode_five rest (parcelCount_of_opcodeOf (opcodeOf_firstParcel ..)) fun m1 m2 m3 m4 => ?_
  -- the goals that still speak of `decode` are those of the forms of one parcel
  any_goals refine decode_one rest (parcelCount_of_opcodeOf (opcodeOf_firstParcel ..)) fun m1 m2 m3 m4 => ?_
  all_goals
    unfold decodeParcels
    rw [opcodeOf_firstParcel, fieldI_firstParcel, fieldJ_firstParcel, fieldK_firstParcel]
  case unspecified035 => exact decode035_unspecified (of_decide_eq_true hwf)
  case unspecified106Low => exact decode106_low _ _ (of_decide_eq_true hwf)
  case unspecified106High => exact decode106_high _ _ (of_decide_eq_true hwf)
  case unspecified164Low => exact decode164_low _ _ (of_decide_eq_true hwf)
  case unspecified164High => exact decode164_high _ _ (of_decide_eq_true hwf)
  all_goals rfl

/-! ## Ignored fields (R105) -/

/-- A designator where the instruction uses it, and 0 where it ignores it. -/
def keepField (used : Bool) (r : Reg) : Reg := if used then r else 0

theorem and_keepField_ones (r : Reg) (used : Bool) : r &&& keepField used 7 = keepField used r := by
  cases used with
  | false => exact BitVec.and_zero
  | true => exact BitVec.and_allOnes

/-- A first parcel of the designators that `used` marks, by the lowest bit of each one's place, and 0 for the others. -/
def keepFields (used : Parcel) (f : BitVec 7) (i j k : Reg) : Parcel :=
  firstParcel f (keepField (used.getLsbD 6) i) (keepField (used.getLsbD 3) j) (keepField (used.getLsbD 0) k)

theorem firstParcel_and_keepFields_ones (used : Parcel) (f : BitVec 7) (i j k : Reg) :
    firstParcel f i j k &&& keepFields used (.allOnes 7) 7 7 7 = keepFields used f i j k := by
  simp only [keepFields, firstParcel_and, BitVec.and_allOnes, and_keepField_ones]

/-- An instruction uses its operation code, and each designator as a whole or not at all. -/
theorem usedBits_eq_keepFields (f : BitVec 7) :
    usedBits (firstParcel f 0 0 0) = keepFields (usedBits (firstParcel f 0 0 0)) (.allOnes 7) 7 7 7 := by
  decide +revert

theorem usedBits_firstParcel (f : BitVec 7) (i j k : Reg) :
    usedBits (firstParcel f i j k) = usedBits (firstParcel f 0 0 0) := by
  simp only [usedBits, opcodeOf_firstParcel]

theorem firstParcel_and_usedBits (f : BitVec 7) (i j k : Reg) :
    firstParcel f i j k &&& usedBits (firstParcel f i j k) =
      keepFields (usedBits (firstParcel f 0 0 0)) f i j k := by
  rw [usedBits_firstParcel, usedBits_eq_keepFields, firstParcel_and_keepFields_ones, ← usedBits_eq_keepFields]

/-! ## Encoding what was decoded -/

/-- The operation codes by what their instructions hold beside designators and m1: the field jk; m1 : m2;
m1 : m2 : m3 : m4; a choice by k (R109); nothing else. -/
theorem opcode_form (f : BitVec 7) :
    f ∈ [0o000, 0o001, 0o026, 0o027, 0o110, 0o111, 0o116, 0o117] ∨
    f ∈
      [0o003, 0o004, 0o005, 0o010, 0o011, 0o012, 0o013, 0o014, 0o015, 0o016, 0o017, 0o042, 0o043, 0o050, 0o051,
       0o052, 0o064, 0o065, 0o066, 0o067] ∨
    f = 0o053 ∨ f = 0o035 ∨ f = 0o106 ∨ f = 0o164 ∨
    f ∈
      [0o002, 0o006, 0o007, 0o020, 0o021, 0o022, 0o023, 0o024, 0o025, 0o030, 0o031, 0o032, 0o033, 0o034, 0o036,
       0o037, 0o040, 0o041, 0o044, 0o045, 0o046, 0o047, 0o054, 0o055, 0o056, 0o057, 0o060, 0o061, 0o062, 0o063,
       0o070, 0o071, 0o072, 0o073, 0o074, 0o075, 0o076, 0o077, 0o100, 0o101, 0o102, 0o103, 0o104, 0o105, 0o107,
       0o112, 0o113, 0o114, 0o115, 0o120, 0o121, 0o122, 0o123, 0o124, 0o125, 0o126, 0o127, 0o130, 0o131, 0o132,
       0o133, 0o134, 0o135, 0o136, 0o137, 0o140, 0o141, 0o142, 0o143, 0o144, 0o145, 0o146, 0o147, 0o150, 0o151,
       0o152, 0o153, 0o154, 0o155, 0o156, 0o157, 0o160, 0o161, 0o162, 0o163, 0o165, 0o166, 0o167, 0o170, 0o171,
       0o172, 0o173, 0o174, 0o175, 0o176, 0o177] := by
  decide +revert

/-- By cases on the operation code, grouped by `opcode_form`. -/
theorem encode_decodeParcels (p m1 m2 m3 m4 : Parcel) :
    encode (decodeParcels p m1 m2 m3 m4) = (p &&& usedBits p) :: [m1, m2, m3, m4].take (parcelCount p - 1) := by
  obtain ⟨f, i, j, k, rfl⟩ : ∃ f i j k, p = firstParcel f i j k := ⟨_, _, _, _, (firstParcel_fields p).symm⟩
  rw [firstParcel_and_usedBits, parcelCount_of_opcodeOf (opcodeOf_firstParcel f i j k)]
  unfold decodeParcels
  rw [opcodeOf_firstParcel, fieldI_firstParcel, fieldJ_firstParcel, fieldK_firstParcel, fieldJK_firstParcel]
  rcases opcode_form f with hf | hf | rfl | rfl | rfl | rfl | hf
  · fin_cases hf <;> exact congrArg ([·]) (firstParcelJK_append _ _ j k)
  · fin_cases hf <;> exact congrArg (_ :: ·) (parcels32_constant32 m1 m2)
  · exact congrArg (_ :: ·) (parcels64_constant64 m1 m2 m3 m4)
  · exact encode_decode035 k
  · exact encode_decode106 i j k
  · exact encode_decode164 i j k
  · fin_cases hf <;> rfl

/-- The constant parcels that `decode` reads are those that are there. -/
theorem take_getD {l : List Parcel} {n : Nat} (hn : n ≤ 4) (hl : n ≤ l.length) :
    [l.getD 0 0, l.getD 1 0, l.getD 2 0, l.getD 3 0].take n = l.take n := by
  refine List.ext_getElem (by simp; omega) fun e he he' => ?_
  have : e < 4 := by simp at he; omega
  have : e < l.length := by simp at he'; omega
  interval_cases e <;> simp [List.getD_eq_getElem?_getD, *]

/-- Settles O3: `encode_decodeParcels`, where the constant parcels are there. -/
theorem encodeDecode : Obligations.EncodeDecode := by
  intro p l rest x h
  obtain ⟨q, t, hl, hn, rfl, -⟩ := decode_eq_ok h
  cases hl
  have h5 := parcelCount_le_five p
  rw [encode_decodeParcels, take_getD (by omega) (by omega)]

/-! ## Every first parcel decodes (R107, R110) -/

theorem decodeParcels_wellFormed (p m1 m2 m3 m4 : Parcel) : (decodeParcels p m1 m2 m3 m4).wellFormed = true := by
  unfold decodeParcels
  generalize opcodeOf p = f
  rcases opcode_form f with hf | hf | rfl | rfl | rfl | rfl | hf
  · fin_cases hf <;> rfl
  · fin_cases hf <;> rfl
  · rfl
  · exact decode035_wellFormed _
  · exact decode106_wellFormed ..
  · exact decode164_wellFormed ..
  · fin_cases hf <;> rfl

/-- What was decoded has the length that its operation code gives, since its encoding has. -/
theorem decodeParcels_parcels (p m1 m2 m3 m4 : Parcel) :
    (decodeParcels p m1 m2 m3 m4).parcels = parcelCount p := by
  have h1 := one_le_parcelCount p
  have h5 := parcelCount_le_five p
  rw [← length_encode, encode_decodeParcels, List.length_cons, List.length_take]
  simp only [List.length_cons, List.length_nil]
  omega

/-- Settles O4: the two branches of `decode`, and `decodeParcels_wellFormed`, `decodeParcels_parcels`. -/
theorem decodeTotal : Obligations.DecodeTotal := by
  refine ⟨rfl, fun p l => ⟨fun h => ?_, fun h => ?_⟩⟩
  · exact ⟨_, decode_cons_of_le h, decodeParcels_wellFormed .., decodeParcels_parcels ..⟩
  · simp only [decode, if_pos h]

/-! ## The unspecified encodings (R433) -/

theorem decodeParcels_035 {p : Parcel} (h : opcodeOf p = 0o035) (m1 m2 m3 m4 : Parcel) :
    decodeParcels p m1 m2 m3 m4 = decode035 (fieldK p) := by
  unfold decodeParcels
  rw [h]
  rfl

theorem decodeParcels_106 {p : Parcel} (h : opcodeOf p = 0o106) (m1 m2 m3 m4 : Parcel) :
    decodeParcels p m1 m2 m3 m4 = decode106 (fieldI p) (fieldJ p) (fieldK p) := by
  unfold decodeParcels
  rw [h]
  rfl

theorem decodeParcels_164 {p : Parcel} (h : opcodeOf p = 0o164) (m1 m2 m3 m4 : Parcel) :
    decodeParcels p m1 m2 m3 m4 = decode164 (fieldI p) (fieldJ p) (fieldK p) := by
  unfold decodeParcels
  rw [h]
  rfl

/-- Settles O33: by cases on the operation code and the range of k. -/
theorem unspecifiedEncodingsStop : Obligations.UnspecifiedEncodingsStop := by
  intro s p l h
  rcases h with ⟨hop, hk⟩ | ⟨hop, hk⟩ | ⟨hop, hk⟩
  · have hdecode := decode_one l (parcelCount_of_opcodeOf hop) (decodeParcels_035 hop)
    rw [decode035_unspecified (BitVec.le_def.2 hk)] at hdecode
    exact ⟨_, hdecode, rfl, .inl ⟨_, rfl⟩⟩
  · have hdecode := decode_one l (parcelCount_of_opcodeOf hop) (decodeParcels_106 hop)
    rcases two_le_reg_iff.1 hk with hlow | hhigh
    · rw [decode106_low _ _ hlow] at hdecode
      exact ⟨_, hdecode, rfl, .inr ⟨_, _, _, .inl rfl⟩⟩
    · rw [decode106_high _ _ hhigh] at hdecode
      exact ⟨_, hdecode, rfl, .inr ⟨_, _, _, .inr (.inl rfl)⟩⟩
  · have hdecode := decode_one l (parcelCount_of_opcodeOf hop) (decodeParcels_164 hop)
    rcases two_le_reg_iff.1 hk with hlow | hhigh
    · rw [decode164_low _ _ hlow] at hdecode
      exact ⟨_, hdecode, rfl, .inr ⟨_, _, _, .inr (.inr (.inl rfl))⟩⟩
    · rw [decode164_high _ _ hhigh] at hdecode
      exact ⟨_, hdecode, rfl, .inr ⟨_, _, _, .inr (.inr (.inr rfl))⟩⟩

end Sys2Proof

/-! # Proofs: the instructions that deliver floating-point results (46_scalar_float.md R320, 48_vector_float_integer.md
R380)

One rule for each of the two shapes, scalar and vector: what they deliver where no error is signalled, and how they halt
where one is. The functions themselves are not looked into. -/

namespace Sys2Proof.Machine

/-! ## The signal of a floating-point error (60_exceptions.md R423) -/

/-- Where nothing erred, or the halt is disabled, the signal of a floating-point error does nothing (D24). -/
theorem State.signal_floatError_off {s : State} {b : Bool} (h : b = false ∨ s.st.enFloatHalt = false) :
    s.signal .floatError b = s := by
  cases b with
  | false => exact s.signal_false _
  | true => exact State.raise_floatError_off (h.resolve_left nofun)

/-- Where the halt is enabled, an instruction that ends in a floating-point error halts the processor. -/
theorem halts_of_floatError {x : Instr} {s u : State} (h : exec x s = .next (u.raise .floatError))
    (hst : u.st = s.st) (hen : s.st.enFloatHalt = true) : Halts x s fun t => t.st.floatErr = true := by
  obtain ⟨hrun, hidle, hmode, hcode, -, -, herr⟩ := u.setFloatErr.halt_status
  rw [State.raise_floatError_on (hst ▸ hen)] at h
  exact ⟨_, h, hrun, hidle, hmode.trans (by rw [State.setFloatErr, hst]),
    hcode.trans (by rw [State.setFloatErr, hst]), herr rfl⟩

/-! ## Scalar results -/

theorem State.floatS_off {s : State} {r : Word × Bool} (i : Reg) (h : r.2 = false ∨ s.st.enFloatHalt = false) :
    s.floatS i r = .next ((s.setS i r.1).advance 1) :=
  congrArg Host.Outcome.next (State.signal_floatError_off (s := (s.setS i r.1).advance 1) h)

theorem floatToS_of_floatS {x : Instr} {s : State} {i : Reg} {r : Word × Bool} (hx : exec x s = s.floatS i r) :
    FloatToS x s i r :=
  fun h => deliversS_of_exec (hx.trans (State.floatS_off i h))

theorem floatHaltS_of_floatS {x : Instr} {s : State} {i : Reg} {r : Word × Bool} (hx : exec x s = s.floatS i r) :
    FloatHaltS x s r := by
  intro herr hen
  refine halts_of_floatError (u := (s.setS i r.1).advance 1) ?_ rfl hen
  rw [hx, State.floatS, herr, State.signal_true]

/-- Settles O47: 123 is a transfer, the others are `floatS` of their function. -/
theorem floatScalars : Obligations.FloatScalars := by
  intro s i j k
  exact ⟨deliversS_of_exec rfl,
    floatToS_of_floatS rfl, floatToS_of_floatS rfl, floatToS_of_floatS rfl, floatToS_of_floatS rfl,
    floatToS_of_floatS rfl, floatToS_of_floatS rfl, floatToS_of_floatS rfl, floatToS_of_floatS rfl,
    floatToS_of_floatS rfl,
    floatHaltS_of_floatS (i := i) rfl, floatHaltS_of_floatS (i := i) rfl, floatHaltS_of_floatS (i := i) rfl,
    floatHaltS_of_floatS (i := i) rfl, floatHaltS_of_floatS (i := i) rfl, floatHaltS_of_floatS (i := i) rfl,
    floatHaltS_of_floatS (i := i) rfl, floatHaltS_of_floatS (i := i) rfl, floatHaltS_of_floatS (i := i) rfl⟩

/-! ## The square root algorithm (40_numerics.md R152) -/

/-- Settles O48: each instruction is a delivery that leaves the halt disabled; the next one reads what it delivered,
and what the others left alone. -/
theorem squareRootSequence : Obligations.SquareRootSequence := by
  intro s hoff
  obtain ⟨t, ht, hst, ht2, htp⟩ :=
    floatToS_of_floatS (x := .rsqrtS 2 1) (i := 2) (r := fRsqrt (s.getS 1)) rfl (.inr hoff)
  have htoff : t.st.enFloatHalt = false := (hst .enFloatHalt (by simp)).trans hoff
  obtain ⟨u, hu, htu, hu3, hup⟩ :=
    floatToS_of_floatS (x := .fmulS 3 1 2) (i := 3) (r := fMul (t.getS 1) (t.getS 2)) rfl (.inr htoff)
  have huoff : u.st.enFloatHalt = false := (htu .enFloatHalt (by simp)).trans htoff
  obtain ⟨v, hv, huv, hv4, hvp⟩ :=
    floatToS_of_floatS (x := .sqrtIterS 4 2 3) (i := 4) (r := fRsqrtIter (u.getS 2) (u.getS 3)) rfl (.inr huoff)
  have hvoff : v.st.enFloatHalt = false := (huv .enFloatHalt (by simp)).trans huoff
  obtain ⟨w, hw, hvw, hw5, hwp⟩ :=
    floatToS_of_floatS (x := .fmulS 5 3 4) (i := 5) (r := fMul (v.getS 3) (v.getS 4)) rfl (.inr hvoff)
  refine ⟨t, u, v, w, ht, hu, hv, hw, ?_, ?_, ?_⟩
  · have ht1 : t.getS 1 = s.getS 1 := hst (.s 1) (by simp)
    have hu2 : u.getS 2 = t.getS 2 := htu (.s 2) (by simp)
    have hv3 : v.getS 3 = u.getS 3 := huv (.s 3) (by simp)
    rw [hw5, hv4, hv3, hu3, hu2, ht2, ht1]
    rfl
  · rw [State.Advanced] at htp hup hvp hwp ⊢
    rw [hwp, hvp, hup, htp]
    simp only [BitVec.add_assoc]
    rfl
  · refine (((hst.trans htu).trans huv).trans hvw).mono fun q hq => ?_
    tauto

/-! ## Vector results -/

theorem deliversV_of_resultV {x : Instr} {s : State} {i : Reg} {f : Nat → Word} (hx : exec x s = s.resultV i f) :
    DeliversV x s i s.vlen f :=
  deliversV_of_exec s.vlen_bounds.2 hx fun _ _ => rfl

theorem State.floatV_off {s : State} {f : Nat → Word × Bool} (i : Reg)
    (h : (∀ e, e < s.vlen → (f e).2 = false) ∨ s.st.enFloatHalt = false) :
    s.floatV i f = .next ((s.setV i s.vlen fun e => (f e).1).advance 1) :=
  congrArg Host.Outcome.next (State.signal_floatError_off (s := (s.setV i s.vlen fun e => (f e).1).advance 1)
    (h.imp_left anyBelow_eq_false.2))

theorem floatToV_of_floatV {x : Instr} {s : State} {i : Reg} {f : Nat → Word × Bool} (hx : exec x s = s.floatV i f) :
    FloatToV x s i f :=
  fun h => deliversV_of_exec s.vlen_bounds.2 (hx.trans (State.floatV_off i h)) fun _ _ => rfl

theorem floatHaltV_of_floatV {x : Instr} {s : State} {i : Reg} {f : Nat → Word × Bool}
    (hx : exec x s = s.floatV i f) : FloatHaltV x s f := by
  intro herr hen
  refine halts_of_floatError (u := (s.setV i s.vlen fun e => (f e).1).advance 1) ?_ rfl hen
  rw [hx, State.floatV, anyBelow_eq_true.2 herr, State.signal_true]

/-- Settles O54: 175 delivers without a signal, the others are `floatV` of their function. -/
theorem floatVectors : Obligations.FloatVectors := by
  intro s i j k a b ha hb
  obtain rfl : a = s.vsrc i j := ha
  obtain rfl : b = s.vsrc i k := hb
  exact ⟨deliversV_of_resultV rfl,
    floatToV_of_floatV rfl, floatToV_of_floatV rfl, floatToV_of_floatV rfl, floatToV_of_floatV rfl,
    floatToV_of_floatV rfl, floatToV_of_floatV rfl, floatToV_of_floatV rfl, floatToV_of_floatV rfl,
    floatToV_of_floatV rfl, floatToV_of_floatV rfl, floatToV_of_floatV rfl,
    floatHaltV_of_floatV (i := i) rfl, floatHaltV_of_floatV (i := i) rfl, floatHaltV_of_floatV (i := i) rfl,
    floatHaltV_of_floatV (i := i) rfl, floatHaltV_of_floatV (i := i) rfl, floatHaltV_of_floatV (i := i) rfl,
    floatHaltV_of_floatV (i := i) rfl, floatHaltV_of_floatV (i := i) rfl, floatHaltV_of_floatV (i := i) rfl,
    floatHaltV_of_floatV (i := i) rfl, floatHaltV_of_floatV (i := i) rfl⟩

end Sys2Proof.Machine

/-! # Proofs: floating-point words and their values (40_numerics.md R136 to R140)

A word is its three fields; its value is its signed coefficient times a power of two, and among the normalized words
the value determines the word. -/

namespace Sys2Proof.Machine

/-! ## Fields -/

theorem floatCoef_lt (w : Word) : floatCoef w < 2 ^ 48 := (w.extractLsb' 0 48).isLt

theorem floatCoef_zero : floatCoef 0 = 0 := rfl

theorem packFloat_fields (w : Word) : packFloat (floatSign w) (floatExp w) (floatCoef w) = w := by
  apply BitVec.eq_of_getLsbD_eq
  intro i hi
  rw [getLsbD_packFloat, floatCoef, floatExp, BitVec.ofNat_toNat, BitVec.ofNat_toNat, BitVec.setWidth_eq,
    BitVec.setWidth_eq]
  split
  · next h => simp [h]
  · next h48 =>
    split
    · next h15 => simp [h15, Nat.add_sub_cancel' (Nat.le_of_not_lt h48)]
    · next h15 =>
      obtain rfl : i = 63 := by omega
      simp [floatSign]

/-- A word is what its fields say. -/
theorem eq_packFloat {w : Word} {s : Bool} {e c : Nat} (hs : floatSign w = s) (he : floatExp w = e)
    (hc : floatCoef w = c) : w = packFloat s e c := by
  rw [← hs, ← he, ← hc, packFloat_fields]

theorem isOverflowed_iff {w : Word} : isOverflowed w = true ↔ 0o60000 ≤ floatExp w := decide_eq_true_iff

theorem isOverflowed_eq_false {w : Word} : isOverflowed w = false ↔ floatExp w < 0o60000 := by
  rw [← Bool.not_eq_true, isOverflowed_iff, Nat.not_le]

theorem isUnderflowed_iff {w : Word} : isUnderflowed w = true ↔ floatExp w < 0o20000 := decide_eq_true_iff

theorem isInRange_iff {w : Word} : isInRange w = true ↔ 0o20000 ≤ floatExp w ∧ floatExp w < 0o60000 := by
  simp [isInRange, isOverflowed, isUnderflowed, and_comm]

theorem isNormalized_iff {w : Word} : isNormalized w = true ↔ 2 ^ 47 ≤ floatCoef w := by
  have hbit : isNormalized w = (w.extractLsb' 0 48).msb := by simp [isNormalized, BitVec.msb_eq_getLsbD_last]
  rw [hbit, BitVec.msb_eq_decide, decide_eq_true_iff, floatCoef]

/-! ## The word with its sign bit complemented -/

theorem getLsbD_negateFloat {w : Word} {i : Nat} (h : i < 63) : (negateFloat w).getLsbD i = w.getLsbD i := by
  rw [negateFloat, BitVec.getLsbD_xor, BitVec.getLsbD_shiftLeft, decide_eq_true h]
  simp

theorem floatExp_negateFloat (w : Word) : floatExp (negateFloat w) = floatExp w := by
  refine congrArg BitVec.toNat (BitVec.eq_of_getLsbD_eq fun i hi => ?_)
  simp only [BitVec.getLsbD_extractLsb', getLsbD_negateFloat (w := w) (i := 48 + i) (by omega)]

/-! ## Coefficients brought to 48 bits -/

/-- A number of at most 48 bits shifted left until bit 47 is 1. -/
theorem shiftLeft_log2_bounds {m : Nat} (h0 : m ≠ 0) (h : m < 2 ^ 48) :
    2 ^ 47 ≤ m <<< (47 - m.log2) ∧ m <<< (47 - m.log2) < 2 ^ 48 := by
  have hlog : m.log2 < 48 := (Nat.log2_lt h0).2 h
  have h47 : 2 ^ m.log2 * 2 ^ (47 - m.log2) = 2 ^ 47 := by rw [← Nat.pow_add, Nat.add_sub_cancel' (by omega)]
  have hlow := Nat.mul_le_mul_right (2 ^ (47 - m.log2)) (Nat.log2_self_le h0)
  have hhigh := Nat.mul_lt_mul_of_pos_right (Nat.lt_log2_self (n := m)) (Nat.two_pow_pos (47 - m.log2))
  rw [Nat.pow_succ, Nat.mul_right_comm, h47] at hhigh
  rw [Nat.shiftLeft_eq]
  omega

theorem cast_shiftLeft_log2 {m : Nat} (h0 : m ≠ 0) (h : m < 2 ^ 48) :
    ((m <<< (47 - m.log2) : Nat) : Rat) = m * 2 ^ (47 - (m.log2 : Int)) := by
  have hlog : m.log2 < 48 := (Nat.log2_lt h0).2 h
  rw [Nat.shiftLeft_eq, Nat.cast_mul, Nat.cast_pow, Nat.cast_ofNat, ← zpow_natCast,
    Nat.cast_sub (by omega : m.log2 ≤ 47)]
  rfl

/-- A coefficient with bit 47 set to 1 is normalized. -/
theorem or_topBit_bounds {c : Nat} (h : c < 2 ^ 48) : 2 ^ 47 ≤ c ||| 2 ^ 47 ∧ c ||| 2 ^ 47 < 2 ^ 48 :=
  ⟨Nat.right_le_or, Nat.or_lt_two_pow h (by decide)⟩

/-! ## Values (R137) -/

/-- The integer of magnitude `m`, negative if `s`. -/
def withSign (s : Bool) (m : Nat) : Int := if s then -m else m

theorem natAbs_withSign (s : Bool) (m : Nat) : (withSign s m).natAbs = m := by
  cases s <;> simp [withSign]

theorem withSign_natAbs (z : Int) : withSign (decide (z < 0)) z.natAbs = z := by
  simp only [withSign, decide_eq_true_eq]
  split <;> omega

theorem signedCoef_eq_withSign (w : Word) : signedCoef w = withSign (floatSign w) (floatCoef w) := rfl

theorem natAbs_signedCoef (w : Word) : (signedCoef w).natAbs = floatCoef w := natAbs_withSign _ _

theorem floatValue_eq (w : Word) : floatValue w = signedCoef w * (2 : Rat) ^ ((floatExp w : Int) - 0o40060) := by
  rw [floatValue, signedCoef, sub_sub]
  split <;> push_cast <;> ring_nf

theorem floatValue_packFloat (s : Bool) {e c : Nat} (he : e < 2 ^ 15) (hc : c < 2 ^ 48) :
    floatValue (packFloat s e c) = withSign s c * (2 : Rat) ^ ((e : Int) - 0o40060) := by
  rw [floatValue_eq, signedCoef_eq_withSign, floatSign_packFloat, floatCoef_packFloat, floatExp_packFloat,
    Nat.mod_eq_of_lt he, Nat.mod_eq_of_lt hc]

/-- Magnitudes that a shift by `i` places makes equal are made equal by it with either sign, in any unit. -/
theorem withSign_mul_zpow {m n : Nat} {i : Int} (s : Bool) (k : Int) (h : (m : Rat) * 2 ^ i = n) :
    (withSign s m : Rat) * 2 ^ (i + k) = withSign s n * 2 ^ k := by
  rw [zpow_add₀ two_ne_zero, ← mul_assoc]
  cases s <;> simp [withSign, h]

/-- Equality of two integers scaled by powers of two, without fractions. -/
theorem mul_zpow_eq_iff {m n i j : Int} (h : i ≤ j) :
    (m : Rat) * 2 ^ i = n * 2 ^ j ↔ m = n * 2 ^ (j - i).toNat := by
  obtain ⟨k, rfl⟩ : ∃ k : Nat, j = i + k := ⟨(j - i).toNat, by omega⟩
  rw [zpow_add₀ two_ne_zero, zpow_natCast, mul_comm ((2 : Rat) ^ i), ← mul_assoc,
    mul_left_inj' (zpow_ne_zero i two_ne_zero), add_sub_cancel_left, Int.toNat_natCast]
  norm_cast

theorem natCast_mul_zpow_eq_iff {m n : Nat} {i j : Int} (h : i ≤ j) :
    (m : Rat) * 2 ^ i = n * 2 ^ j ↔ m = n * 2 ^ (j - i).toNat := by
  exact_mod_cast mul_zpow_eq_iff (m := m) (n := n) h

/-- Both exponents may be counted from any origin. -/
theorem mul_zpow_sub_iff {m n : Rat} {i j : Int} (k : Int) :
    m * 2 ^ (i - k) = n * 2 ^ (j - k) ↔ m * 2 ^ i = n * 2 ^ j := by
  rw [zpow_sub₀ two_ne_zero, zpow_sub₀ two_ne_zero, ← mul_div_assoc, ← mul_div_assoc,
    div_left_inj' (zpow_ne_zero k two_ne_zero)]

/-- Equal numbers have equal magnitudes and signs. -/
theorem natAbs_of_mul_zpow_eq {m n i j : Int} (h : (m : Rat) * 2 ^ i = n * 2 ^ j) :
    (m.natAbs : Rat) * 2 ^ i = n.natAbs * 2 ^ j ∧ (m < 0 ↔ n < 0) := by
  have hi : (0 : Rat) < 2 ^ i := zpow_pos two_pos i
  have hj : (0 : Rat) < 2 ^ j := zpow_pos two_pos j
  constructor
  · have habs := congrArg abs h
    rwa [abs_mul, abs_mul, abs_of_pos hi, abs_of_pos hj, ← Int.cast_abs, ← Int.cast_abs, ← Nat.cast_natAbs,
      ← Nat.cast_natAbs] at habs
  · rw [← Int.cast_lt_zero (R := Rat), ← Int.cast_lt_zero (R := Rat) (n := n), ← mul_lt_mul_iff_left₀ hi,
      ← mul_lt_mul_iff_left₀ (b := (n : Rat)) hj, h, zero_mul, zero_mul]

/-- The magnitude `n` is that of a normalized coefficient: 48 bits, of which the top one is 1 (R140). -/
def NormalMagnitude (n : Nat) : Prop := 2 ^ 47 ≤ n ∧ n < 2 ^ 48

theorem normalMagnitude_signedCoef {w : Word} : NormalMagnitude (signedCoef w).natAbs ↔ isNormalized w = true := by
  rw [natAbs_signedCoef, isNormalized_iff, NormalMagnitude, and_iff_left (floatCoef_lt w)]

/-- A normalized coefficient and its exponent are determined by the value: the lesser exponent cannot be lower, since
the other coefficient shifted left has more than 48 bits. -/
theorem normal_unique {m n i j : Int} (hm : NormalMagnitude m.natAbs) (hn : NormalMagnitude n.natAbs)
    (h : (m : Rat) * 2 ^ i = n * 2 ^ j) : m = n ∧ i = j := by
  wlog hij : i ≤ j generalizing m n i j
  · exact (this hn hm h.symm (Int.le_of_lt (Int.not_le.1 hij))).imp Eq.symm Eq.symm
  have hmn := (mul_zpow_eq_iff hij).1 h
  obtain ⟨-, hm⟩ := hm
  obtain ⟨hn, -⟩ := hn
  cases hk : (j - i).toNat with
  | zero => exact ⟨by simpa [hk] using hmn, by omega⟩
  | succ k =>
    have habs : m.natAbs = n.natAbs * (2 ^ k * 2) := by
      rw [hmn, hk, Int.natAbs_mul, Int.natAbs_pow, pow_succ]
      rfl
    have hpos := Nat.mul_le_mul_left n.natAbs (Nat.two_pow_pos k)
    rw [← Nat.mul_assoc] at habs
    omega

/-- The sign and the coefficient are those of the signed coefficient. -/
theorem eq_packFloat_of_signedCoef {w : Word} {s : Bool} {c : Nat} (hc : c ≠ 0)
    (h : signedCoef w = withSign s c) : w = packFloat s (floatExp w) c := by
  have hcoef : floatCoef w = c := by
    rw [← natAbs_signedCoef, h, natAbs_withSign]
  refine eq_packFloat ?_ rfl hcoef
  rw [signedCoef_eq_withSign, hcoef] at h
  unfold withSign at h
  cases hw : floatSign w <;> cases s <;> simp only [hw, if_true, Bool.false_eq_true, if_false] at h ⊢ <;> omega

theorem floatSign_eq_decide {w : Word} (h : floatCoef w ≠ 0) : floatSign w = decide (signedCoef w < 0) := by
  unfold signedCoef
  cases floatSign w
  · simp
  · simpa using Nat.pos_of_ne_zero h

/-- Two normalized words of the same value are the same word. -/
theorem eq_of_floatValue_eq {v w : Word} (hv : isNormalized v = true) (hw : isNormalized w = true)
    (h : floatValue v = floatValue w) : v = w := by
  rw [floatValue_eq, floatValue_eq] at h
  obtain ⟨hcoef, hexp⟩ := normal_unique (normalMagnitude_signedCoef.2 hv) (normalMagnitude_signedCoef.2 hw) h
  have hw0 : floatCoef w ≠ 0 := by
    have := isNormalized_iff.1 hw
    omega
  rw [eq_packFloat_of_signedCoef hw0 hcoef, show floatExp v = floatExp w by omega, packFloat_fields]

end Sys2Proof.Machine

/-! # Proofs: sums and differences (40_numerics.md R144, R145)

What each function of the add unit answers, then the cases of its result: both operations are `addResult` of operands
with the exponents of their own. -/

namespace Sys2Proof.Machine

/-! ## Sums that the properties do not fix -/

/-- The all-zero word, or a normalized one below the overflow range (R144 FAdd-zero, FAdd-norm). -/
theorem openSum_cases (r : Word) :
    openSum r = 0 ∨ (isNormalized (openSum r) = true ∧ isOverflowed (openSum r) = false) := by
  unfold openSum
  split
  · exact .inl rfl
  · refine .inr ⟨?_, ?_⟩
    · obtain ⟨hlow, hhigh⟩ := or_topBit_bounds (floatCoef_lt r)
      rwa [isNormalized_iff, floatCoef_packFloat, Nat.mod_eq_of_lt hhigh]
    · rw [isOverflowed_eq_false, floatExp_packFloat]
      omega

theorem isOverflowed_openSum (r : Word) : isOverflowed (openSum r) = false := by
  rcases openSum_cases r with h | ⟨-, h⟩
  · rw [h]
    rfl
  · exact h

/-! ## The operands ordered by their exponents -/

theorem floatExp_flushUnderflow_le (w : Word) : floatExp (flushUnderflow w) ≤ floatExp w := by
  unfold flushUnderflow
  split
  · exact Nat.zero_le _
  · exact Nat.le_refl _

theorem operandValue_eq (w : Word) : operandValue w = floatValue (flushUnderflow w) := by
  unfold operandValue flushUnderflow
  split
  · rw [floatValue, floatCoef_zero, Nat.cast_zero, mul_zero, zero_mul]
  · rfl

/-- Which operand is the one of greater exponent. -/
theorem sumHigh_sumLow_cases (a b : Word) :
    (sumHigh a b = a ∧ sumLow a b = b ∧ floatExp b ≤ floatExp a) ∨
      (sumHigh a b = b ∧ sumLow a b = a ∧ floatExp a < floatExp b) := by
  unfold sumHigh sumLow
  split
  · next h => exact .inl ⟨rfl, rfl, h⟩
  · next h => exact .inr ⟨rfl, rfl, Nat.lt_of_not_le h⟩

theorem floatExp_sumLow_add_sumShift (a b : Word) :
    floatExp (sumLow a b) + sumShift a b = floatExp (sumHigh a b) := by
  unfold sumShift
  rcases sumHigh_sumLow_cases a b with ⟨hh, hl, h⟩ | ⟨hh, hl, h⟩ <;> rw [hh, hl] <;> omega

theorem floatExp_sumHigh_lt {a b : Word} {n : Nat} (ha : floatExp a < n) (hb : floatExp b < n) :
    floatExp (sumHigh a b) < n := by
  rcases sumHigh_sumLow_cases a b with ⟨hh, -, -⟩ | ⟨hh, -, -⟩ <;> rwa [hh]

/-- In the other order the operands are the same two, or they have one exponent and change places. -/
theorem sum_order (a b : Word) :
    (sumHigh b a = sumHigh a b ∧ sumLow b a = sumLow a b) ∨
      (sumHigh b a = sumLow a b ∧ sumLow b a = sumHigh a b ∧ floatExp (sumLow a b) = floatExp (sumHigh a b)) := by
  rcases sumHigh_sumLow_cases a b with ⟨hh, hl, h⟩ | ⟨hh, hl, h⟩ <;>
    rcases sumHigh_sumLow_cases b a with ⟨hh', hl', h'⟩ | ⟨hh', hl', h'⟩ <;> rw [hh, hl, hh', hl']
  · exact .inr ⟨rfl, rfl, by omega⟩
  · exact .inl ⟨rfl, rfl⟩
  · exact .inl ⟨rfl, rfl⟩
  · omega

/-! ## The order of the operands (FAdd-comm) -/

theorem exactSum_comm (a b : Word) : exactSum a b = exactSum b a := by
  rcases sum_order a b with ⟨hh, hl⟩ | ⟨hh, hl, he⟩
  · unfold exactSum sumShift
    rw [hh, hl]
  · simp only [exactSum, sumShift, hh, hl, he, Nat.sub_self, Nat.pow_zero, Nat.mod_one, if_true, Int.pow_zero,
      Int.ediv_one, Int.add_comm (signedCoef (sumHigh a b))]

theorem sumMagnitude_comm (a b : Word) : sumMagnitude a b = sumMagnitude b a := by
  rcases sum_order a b with ⟨hh, hl⟩ | ⟨hh, hl, he⟩
  · simp only [sumMagnitude, sumShift, hh, hl]
  · simp only [sumMagnitude, sumShift, hh, hl, he, Nat.sub_self, Int.pow_zero, Int.mul_one,
      Int.add_comm (signedCoef (sumHigh a b))]

theorem sumExp_comm (a b : Word) : sumExp a b = sumExp b a := by
  rw [sumExp, sumExp, sumMagnitude_comm b a]
  rcases sum_order a b with ⟨-, hl⟩ | ⟨-, hl, he⟩
  · rw [hl]
  · rw [hl, he]

theorem addResult_comm (r : Word) (rErr : Bool) (a b : Word) : addResult r rErr a b = addResult r rErr b a := by
  unfold addResult sumCanCarry
  rw [exactSum_comm (flushUnderflow a), sumExp_comm (flushUnderflow a), sumMagnitude_comm (flushUnderflow a),
    Bool.or_comm (isOverflowed a)]

/-- A free value taken of the operands in the order of their words is the same for either order. -/
theorem ordered_comm {α : Type} (f : Word → Word → α) (a b : Word) :
    (if a ≤ b then f a b else f b a) = if b ≤ a then f b a else f a b := by
  by_cases hab : a ≤ b <;> by_cases hba : b ≤ a
  · rw [BitVec.le_antisymm hab hba]
  · rw [if_pos hab, if_neg hba]
  · rw [if_neg hab, if_pos hba]
  · exact absurd (BitVec.le_of_lt (BitVec.not_le.1 hab)) hba

theorem fAdd_comm (a b : Word) : fAdd a b = fAdd b a := by
  have hword : addFreeWord a b = addFreeWord b a := ordered_comm Config.addWord a b
  have herr : addFreeErr a b = addFreeErr b a := ordered_comm Config.addErr a b
  rw [fAdd, hword, herr, addResult_comm, ← fAdd]

/-- The difference is `addResult` of operands with the same exponents; only the free values are its own. -/
theorem fSub_eq_addResult (a b : Word) : ∃ r rErr, fSub a b = addResult r rErr a (negateFloat b) := by
  unfold fSub
  split
  · exact ⟨_, _, rfl⟩
  · exact ⟨_, _, rfl⟩

/-! ## Normalizing a sum -/

/-- The number that a sum of coefficients is, where no 1 bit is lost, in units of the greater exponent's last place. -/
def matchedSum (a b : Word) : Int := signedCoef (sumHigh a b) + signedCoef (sumLow a b) / 2 ^ sumShift a b

/-- Zero, or a magnitude of at most 48 bits, or an even one, has a normalized form of the same value. -/
theorem normalizeSum_eq_some {e m c : Nat} {e' : Int} (hm : m < 2 ^ 49) (h : normalizeSum e m = some (e', c)) :
    (c : Rat) * 2 ^ e' = m * 2 ^ (e : Int) ∧ (c = 0 ∧ m = 0 ∨ NormalMagnitude c) ∧ e' ≤ e + 1 := by
  unfold normalizeSum at h
  split at h
  · next h48 =>
    obtain ⟨rfl, rfl⟩ := Prod.mk.injEq .. ▸ Option.some.inj h
    by_cases hm0 : m = 0
    · subst hm0
      exact ⟨by simp, .inl ⟨Nat.zero_shiftLeft _, rfl⟩, by simp only [Nat.log2_zero]; omega⟩
    · have hlog : m.log2 < 48 := (Nat.log2_lt hm0).2 h48
      refine ⟨?_, .inr (shiftLeft_log2_bounds hm0 h48), by omega⟩
      rw [cast_shiftLeft_log2 hm0 h48, mul_assoc, ← zpow_add₀ two_ne_zero]
      ring_nf
  · next h48 =>
    split at h
    · next heven =>
      obtain ⟨rfl, rfl⟩ := Prod.mk.injEq .. ▸ Option.some.inj h
      refine ⟨?_, .inr (by unfold NormalMagnitude; omega), Int.le_refl _⟩
      rw [zpow_add_one₀ two_ne_zero, mul_comm ((2 : Rat) ^ _), ← mul_assoc]
      congr 1
      exact_mod_cast Nat.div_mul_cancel (Nat.dvd_of_mod_eq_zero heven)
    · cases h

theorem normalizeSum_eq_none {e m : Nat} (h : normalizeSum e m = none) : 2 ^ 48 ≤ m ∧ m % 2 = 1 := by
  unfold normalizeSum at h
  split at h
  · cases h
  · split at h
    · cases h
    · omega

/-! ## Exact sums (FAdd-exact) -/

/-- The number is the sum of the values. -/
theorem floatValue_add_floatValue {a b : Word} (h : floatCoef (sumLow a b) % 2 ^ sumShift a b = 0) :
    floatValue a + floatValue b = matchedSum a b * (2 : Rat) ^ ((floatExp (sumHigh a b) : Int) - 0o40060) := by
  have hsum : floatValue a + floatValue b = floatValue (sumHigh a b) + floatValue (sumLow a b) := by
    rcases sumHigh_sumLow_cases a b with ⟨hh, hl, -⟩ | ⟨hh, hl, -⟩ <;> rw [hh, hl]
    exact add_comm _ _
  have hdvd : ((2 ^ sumShift a b : Nat) : Int) ∣ signedCoef (sumLow a b) := by
    rw [← Int.dvd_natAbs, natAbs_signedCoef, Int.natCast_dvd_natCast]
    exact Nat.dvd_of_mod_eq_zero h
  have hlow : floatValue (sumLow a b) = (signedCoef (sumLow a b) / 2 ^ sumShift a b : Int) *
      (2 : Rat) ^ ((floatExp (sumHigh a b) : Int) - 0o40060) := by
    have hexp := floatExp_sumLow_add_sumShift a b
    rw [floatValue_eq, mul_zpow_eq_iff (by omega), show ((floatExp (sumHigh a b) : Int) - 0o40060 -
      ((floatExp (sumLow a b) : Int) - 0o40060)).toNat = sumShift a b by omega]
    exact_mod_cast (Int.ediv_mul_cancel hdvd).symm
  rw [hsum, hlow, floatValue_eq (sumHigh a b), matchedSum, Int.cast_add, add_mul]

theorem natAbs_matchedSum_lt (a b : Word) : (matchedSum a b).natAbs < 2 ^ 49 := by
  have hhigh := natAbs_signedCoef (sumHigh a b) ▸ floatCoef_lt (sumHigh a b)
  have hlow := natAbs_signedCoef (sumLow a b) ▸ floatCoef_lt (sumLow a b)
  have hdiv := Int.natAbs_ediv_le_natAbs (signedCoef (sumLow a b)) (2 ^ sumShift a b)
  have hadd := Int.natAbs_add_le (signedCoef (sumHigh a b)) (signedCoef (sumLow a b) / 2 ^ sumShift a b)
  rw [matchedSum]
  omega

/-- Where no 1 bit is lost, the exact sum is the normalized form of the number. -/
theorem exactSum_of_noBitLost {a b : Word} (h : floatCoef (sumLow a b) % 2 ^ sumShift a b = 0) :
    exactSum a b = (normalizeSum (floatExp (sumHigh a b)) (matchedSum a b).natAbs).map fun x =>
      (decide (matchedSum a b < 0), x) := by
  simp only [exactSum, if_pos h, matchedSum]
  generalize normalizeSum _ _ = form
  cases form <;> rfl

theorem exactSum_eq_some {a b : Word} {s : Bool} {e : Int} {c : Nat} (h : exactSum a b = some (s, e, c)) :
    s = decide (matchedSum a b < 0) ∧
      normalizeSum (floatExp (sumHigh a b)) (matchedSum a b).natAbs = some (e, c) := by
  by_cases hlost : floatCoef (sumLow a b) % 2 ^ sumShift a b = 0
  · rw [exactSum_of_noBitLost hlost, Option.map_eq_some_iff] at h
    obtain ⟨_, hnorm, heq⟩ := h
    cases heq
    exact ⟨rfl, hnorm⟩
  · rw [exactSum, if_neg hlost] at h
    cases h

/-- A sum of operands with one exponent that is not exact is odd and has 49 bits. -/
theorem matchedSum_odd_of_exactSum_eq_none {a b : Word} (hshift : sumShift a b = 0) (h : exactSum a b = none) :
    (matchedSum a b).natAbs % 2 = 1 := by
  rw [exactSum_of_noBitLost (by rw [hshift, Nat.pow_zero, Nat.mod_one]), Option.map_eq_none_iff] at h
  exact (normalizeSum_eq_none h).2

/-! ## The sum's own exponent -/

theorem sumMagnitude_le (a b : Word) : sumMagnitude a b ≤ (2 ^ 48 - 1) * 2 ^ sumShift a b + (2 ^ 48 - 1) := by
  have hhigh := Nat.mul_le_mul_right (2 ^ sumShift a b) (Nat.le_sub_one_of_lt (floatCoef_lt (sumHigh a b)))
  have hlow := floatCoef_lt (sumLow a b)
  have hadd := Int.natAbs_add_le (signedCoef (sumHigh a b) * 2 ^ sumShift a b) (signedCoef (sumLow a b))
  rw [Int.natAbs_mul, Int.natAbs_pow, natAbs_signedCoef, natAbs_signedCoef] at hadd
  change sumMagnitude a b ≤ floatCoef (sumHigh a b) * 2 ^ sumShift a b + floatCoef (sumLow a b) at hadd
  omega

/-- The exponent of a sum is at most one above the greater exponent. -/
theorem sumExp_le (a b : Word) : sumExp a b ≤ floatExp (sumHigh a b) + 1 := by
  have hexp := floatExp_sumLow_add_sumShift a b
  have hlog : (sumMagnitude a b).log2 < 49 + sumShift a b := by
    by_cases h0 : sumMagnitude a b = 0
    · rw [h0, Nat.log2_zero]
      omega
    · have hpos := Nat.two_pow_pos (sumShift a b)
      have hle := sumMagnitude_le a b
      rw [Nat.log2_lt h0, Nat.pow_add]
      omega
  rw [sumExp]
  omega

/-- Below the greatest exponent no rounding reaches the overflow range: a sum of two coefficients that is all ones but
for its last places needs them equal and all ones, and then it is exact. -/
theorem sumCanCarry_eq_false {a b : Word} (hexp : floatExp (sumHigh a b) < 0o57777) (hnone : exactSum a b = none) :
    sumCanCarry a b = false := by
  rw [← Bool.not_eq_true]
  intro h
  simp only [sumCanCarry, Bool.and_eq_true, decide_eq_true_eq] at h
  obtain ⟨hown, hones⟩ := h
  have hshift := floatExp_sumLow_add_sumShift a b
  have hle := sumMagnitude_le a b
  have hown' := sumExp_le a b
  rw [sumExp] at hown hown'
  have hlog : (sumMagnitude a b).log2 - 47 = sumShift a b + 1 := by omega
  rw [hlog] at hones
  have hge := Nat.div_mul_le_self (sumMagnitude a b) (2 ^ (sumShift a b + 1))
  rw [hones, pow_succ 2 (sumShift a b)] at hge
  have hone : 2 ^ sumShift a b = 1 := by
    have := Nat.two_pow_pos (sumShift a b)
    omega
  have hzero : sumShift a b = 0 := (Nat.pow_eq_one.1 hone).resolve_left (by decide)
  have hodd := matchedSum_odd_of_exactSum_eq_none hzero hnone
  have hsame : (matchedSum a b).natAbs = sumMagnitude a b := by
    rw [matchedSum, sumMagnitude, hzero, Int.pow_zero, Int.ediv_one, Int.mul_one]
  rw [hone] at hle hge
  omega

/-! ## The result of the add unit -/

theorem addResult_of_overflowed {a b : Word} (r : Word) (rErr : Bool)
    (h : isOverflowed a = true ∨ isOverflowed b = true) : addResult r rErr a b = (forceExp 0o60000 r, true) := by
  rw [addResult, if_pos (by simpa using h)]

section
variable {a b : Word} (r : Word) (rErr : Bool) (ha : isOverflowed a = false) (hb : isOverflowed b = false)
include ha hb

theorem addResult_of_some {s : Bool} {e : Int} {c : Nat}
    (h : exactSum (flushUnderflow a) (flushUnderflow b) = some (s, e, c)) :
    addResult r rErr a b =
      if c = 0 then (0, false)
      else if 0o60000 ≤ e then (forceExp 0o60000 r, rErr)
      else if e < 0o20000 then (openSum r, false)
      else (packFloat s e.toNat c, false) := by
  unfold addResult
  rw [ha, hb, h]
  rfl

theorem addResult_of_none (h : exactSum (flushUnderflow a) (flushUnderflow b) = none) :
    addResult r rErr a b =
      if 0o60000 ≤ sumExp (flushUnderflow a) (flushUnderflow b) then (forceExp 0o60000 r, rErr)
      else if sumCanCarry (flushUnderflow a) (flushUnderflow b) && isOverflowed r then (forceExp 0o60000 r, rErr)
      else (openSum r, false) := by
  unfold addResult
  rw [ha, hb, h]
  rfl

end

/-- The word and the signal of a sum without an overflowed operand (R144, R145): the all-zero word, the forced exponent,
or a normalized word below it, of which only the second may be signalled. -/
def SumOutcome (p : Word × Bool) : Prop :=
  (p.1 = 0 ∧ p.2 = false) ∨ floatExp p.1 = 0o60000 ∨
    (isNormalized p.1 = true ∧ isOverflowed p.1 = false ∧ p.2 = false)

theorem sumOutcome_forceExp (r : Word) (rErr : Bool) : SumOutcome (forceExp 0o60000 r, rErr) :=
  .inr (.inl (floatExp_forceExp _ r))

theorem sumOutcome_openSum (r : Word) : SumOutcome (openSum r, false) := by
  rcases openSum_cases r with h | ⟨hnorm, hovf⟩
  · exact .inl ⟨h, rfl⟩
  · exact .inr (.inr ⟨hnorm, hovf, rfl⟩)

theorem addResult_outcome {a b : Word} (r : Word) (rErr : Bool) (ha : isOverflowed a = false)
    (hb : isOverflowed b = false) : SumOutcome (addResult r rErr a b) := by
  cases hx : exactSum (flushUnderflow a) (flushUnderflow b) with
  | some x =>
    obtain ⟨s, e, c⟩ := x
    rw [addResult_of_some r rErr ha hb hx]
    obtain ⟨-, hnorm⟩ := exactSum_eq_some hx
    obtain ⟨-, hc, -⟩ := normalizeSum_eq_some (natAbs_matchedSum_lt _ _) hnorm
    split
    · exact .inl ⟨rfl, rfl⟩
    · next hc0 =>
      split
      · exact sumOutcome_forceExp r rErr
      · split
        · exact sumOutcome_openSum r
        · obtain ⟨hlow, hhigh⟩ := hc.resolve_left fun h => hc0 h.1
          refine .inr (.inr ⟨?_, ?_, rfl⟩)
          · rwa [isNormalized_iff, floatCoef_packFloat, Nat.mod_eq_of_lt hhigh]
          · rw [isOverflowed_eq_false, floatExp_packFloat]
            omega
  | none =>
    rw [addResult_of_none r rErr ha hb hx]
    split
    · exact sumOutcome_forceExp r rErr
    · split
      · exact sumOutcome_forceExp r rErr
      · exact sumOutcome_openSum r

/-- Operands whose exponents are below 57777 octal give no error and no overflow. -/
theorem addResult_of_exp_lt {a b : Word} (r : Word) (rErr : Bool) (ha : floatExp a < 0o57777)
    (hb : floatExp b < 0o57777) : (addResult r rErr a b).2 = false ∧ isOverflowed (addResult r rErr a b).1 = false := by
  have haOvf : isOverflowed a = false := isOverflowed_eq_false.2 (by omega)
  have hbOvf : isOverflowed b = false := isOverflowed_eq_false.2 (by omega)
  have hhigh : floatExp (sumHigh (flushUnderflow a) (flushUnderflow b)) < 0o57777 :=
    floatExp_sumHigh_lt (Nat.lt_of_le_of_lt (floatExp_flushUnderflow_le a) ha)
      (Nat.lt_of_le_of_lt (floatExp_flushUnderflow_le b) hb)
  cases hx : exactSum (flushUnderflow a) (flushUnderflow b) with
  | some x =>
    obtain ⟨s, e, c⟩ := x
    obtain ⟨-, hnorm⟩ := exactSum_eq_some hx
    obtain ⟨-, -, he⟩ := normalizeSum_eq_some (natAbs_matchedSum_lt _ _) hnorm
    rw [addResult_of_some r rErr haOvf hbOvf hx, if_neg (by omega : ¬ (0o60000 : Int) ≤ e)]
    split
    · exact ⟨rfl, rfl⟩
    · split
      · exact ⟨rfl, isOverflowed_openSum r⟩
      · refine ⟨rfl, ?_⟩
        rw [isOverflowed_eq_false, floatExp_packFloat]
        omega
  | none =>
    have he := sumExp_le (flushUnderflow a) (flushUnderflow b)
    rw [addResult_of_none r rErr haOvf hbOvf hx, if_neg (by omega), sumCanCarry_eq_false hhigh hx]
    exact ⟨rfl, isOverflowed_openSum r⟩

/-- Settles O56: both operations are `addResult` of operands with the exponents of their own. -/
theorem floatSums : Obligations.FloatSums := by
  intro a b p hp
  obtain ⟨r, rErr, b', hexp, rfl⟩ : ∃ r rErr b', floatExp b' = floatExp b ∧ p = addResult r rErr a b' := by
    rcases hp with rfl | rfl
    · exact ⟨_, _, b, rfl, rfl⟩
    · obtain ⟨r, rErr, h⟩ := fSub_eq_addResult a b
      exact ⟨r, rErr, negateFloat b, floatExp_negateFloat b, h⟩
  have hovf : isOverflowed b' = isOverflowed b := by rw [isOverflowed, hexp, isOverflowed]
  refine ⟨fun h => ?_, fun ha hb => ?_, fun ha hb => ?_, fAdd_comm a b, fun hrange hcoef => ?_⟩
  · rw [addResult_of_overflowed r rErr (hovf ▸ h)]
    exact ⟨rfl, floatExp_forceExp _ r⟩
  · exact addResult_outcome r rErr ha (hovf ▸ hb)
  · exact addResult_of_exp_lt r rErr ha (hexp ▸ hb)
  · rw [fSub, hrange, decide_eq_true hcoef]
    rfl

/-! ## Exact sums are answered (FAdd-exact) -/

/-- Which of the two operands is shifted, `NoBitLost` speaks of it. -/
theorem sumLow_mod_eq_zero {a b : Word} (hab : NoBitLost a b) (hba : NoBitLost b a) :
    floatCoef (sumLow a b) % 2 ^ sumShift a b = 0 := by
  unfold sumShift
  rcases sumHigh_sumLow_cases a b with ⟨hh, hl, h⟩ | ⟨hh, hl, h⟩ <;> rw [hh, hl]
  · exact hab h
  · exact hba (Nat.le_of_lt h)

/-- The normalized form is found: with 49 bits the number is even, since it is a coefficient of 48 bits shifted left. -/
theorem normalizeSum_of_normal {e m c : Nat} {e' : Int} (hm : m < 2 ^ 49) (hc : NormalMagnitude c)
    (h : (c : Rat) * 2 ^ e' = m * 2 ^ (e : Int)) : normalizeSum e m = some (e', c) := by
  cases hnorm : normalizeSum e m with
  | some x =>
    obtain ⟨e'', c''⟩ := x
    obtain ⟨hvalue, hc'', -⟩ := normalizeSum_eq_some hm hnorm
    have hc0 : c'' = 0 ∧ m = 0 → False := by
      rintro ⟨-, rfl⟩
      obtain rfl : c = 0 := by simpa [zpow_ne_zero e' (two_ne_zero (α := Rat))] using h
      exact absurd hc.1 (by decide)
    obtain ⟨hcc, hee⟩ := normal_unique (m := c) (n := c'') hc (hc''.resolve_left hc0)
      (by exact_mod_cast h.trans hvalue.symm)
    rw [hee, Int.natCast_inj.1 hcc]
  | none =>
    obtain ⟨hbig, hodd⟩ := normalizeSum_eq_none hnorm
    obtain ⟨-, hc48⟩ := hc
    rcases Int.lt_or_le e e' with he | he
    · obtain ⟨k, hk⟩ : ∃ k, (e' - e).toNat = k + 1 := ⟨(e' - e).toNat - 1, by omega⟩
      have heven : m = c * 2 ^ k * 2 := by
        rw [Nat.mul_assoc, ← pow_succ, ← hk]
        exact (natCast_mul_zpow_eq_iff (Int.le_of_lt he)).1 h.symm
      omega
    · have hcm : c = m * 2 ^ ((e : Int) - e').toNat := (natCast_mul_zpow_eq_iff he).1 h
      have hle := Nat.mul_le_mul_left m (Nat.two_pow_pos ((e : Int) - e').toNat)
      omega

/-- Settles O57: with no bit lost the exact sum is computed, and its normalized form is unique. -/
theorem floatSumExact : Obligations.FloatSumExact := by
  intro a b r ha hb hab hba
  have hlost := sumLow_mod_eq_zero hab hba
  have hexact := exactSum_of_noBitLost hlost
  rw [operandValue_eq, operandValue_eq, floatValue_add_floatValue hlost]
  refine ⟨fun hrange hnormal hvalue => ?_, fun hzero => ?_⟩
  · rw [floatValue_eq, mul_zpow_sub_iff] at hvalue
    obtain ⟨hmagnitude, hsign⟩ := natAbs_of_mul_zpow_eq hvalue
    have hnorm := normalizeSum_of_normal (natAbs_matchedSum_lt _ _) (normalMagnitude_signedCoef.2 hnormal) hmagnitude
    rw [natAbs_signedCoef] at hnorm
    rw [hnorm] at hexact
    obtain ⟨hlow, hhigh⟩ := isInRange_iff.1 hrange
    have hcoef : floatCoef r ≠ 0 := by
      have := isNormalized_iff.1 hnormal
      omega
    rw [fAdd, addResult_of_some _ _ ha hb hexact, if_neg hcoef, if_neg (by omega), if_neg (by omega),
      Int.toNat_natCast, decide_eq_decide.2 hsign.symm, ← floatSign_eq_decide hcoef, packFloat_fields]
  · have hsum : matchedSum (flushUnderflow a) (flushUnderflow b) = 0 := by
      exact_mod_cast (mul_eq_zero.1 hzero).resolve_right (zpow_ne_zero _ two_ne_zero)
    rw [hsum] at hexact
    rw [fAdd, addResult_of_some _ _ ha hb hexact, Int.natAbs_zero, Nat.zero_shiftLeft, if_pos rfl]

end Sys2Proof.Machine

/-! # Proofs: products (40_numerics.md R146, R147)

The cases of the product in the order the function tests them, and the three outcomes of an ordinary product: exact at
the exponent of the rule, exact at a lower one, or with a free coefficient. -/

namespace Sys2Proof.Machine

/-! ## The order of the operands (FMul-comm) -/

theorem productSign_comm (a b : Word) : productSign a b = productSign b a := Bool.xor_comm _ _

theorem freeCoef_comm (r a b : Word) : freeCoef r a b = freeCoef r b a := by
  rw [freeCoef, Bool.and_comm, freeCoef]

theorem integerProduct_comm (r a b : Word) : integerProduct r a b = integerProduct r b a := by
  unfold integerProduct
  rw [productSign_comm a b, Nat.mul_comm (floatCoef a)]

theorem ordinaryProduct_comm (r a b : Word) : ordinaryProduct r a b = ordinaryProduct r b a := by
  unfold ordinaryProduct
  rw [productSign_comm a b, freeCoef_comm r a b, Nat.mul_comm (floatCoef a), Nat.add_comm (floatExp a)]

/-- The first test of a product is that of an iteration (R149, R155). -/
theorem iterationErr_iff {a b : Word} : iterationErr a b = true ↔
    isOverflowed a = true ∨ isOverflowed b = true ∨ 0o60000 + 0o40000 ≤ floatExp a + floatExp b := by
  simp [iterationErr, or_assoc]

/-! ## The cases of a product -/

theorem fMul_of_err {a b : Word} (h : iterationErr a b = true) :
    fMul a b = (forceExp 0o60001 (mulFreeWord a b), true) := if_pos h

/-- Case 4, which comes before case 3. -/
theorem fMul_of_integers {a b : Word} (ha : floatExp a = 0) (hb : floatExp b = 0) :
    fMul a b = (integerProduct (mulFreeWord a b) a b, false) := by
  have herr : ¬ iterationErr a b = true := by
    rw [iterationErr_iff, isOverflowed_iff, isOverflowed_iff]
    omega
  exact (if_neg herr).trans (if_pos ⟨ha, hb⟩)

theorem fMul_of_underflow {a b : Word} (herr : ¬ iterationErr a b = true) (h0 : ¬ (floatExp a = 0 ∧ floatExp b = 0))
    (h : isUnderflowed a = true ∨ isUnderflowed b = true ∨ floatExp a + floatExp b < 0o20000 + 0o40000) :
    fMul a b = (0, false) :=
  (if_neg herr).trans ((if_neg h0).trans (if_pos (by simpa [or_assoc] using h)))

theorem fMul_of_ordinary {a b : Word} (ha : isInRange a = true) (hb : isInRange b = true)
    (hlow : 0o20000 + 0o40000 ≤ floatExp a + floatExp b) (hhigh : floatExp a + floatExp b < 0o60000 + 0o40000) :
    fMul a b = (ordinaryProduct (mulFreeWord a b) a b, false) := by
  rw [isInRange_iff] at ha hb
  have herr : ¬ iterationErr a b = true := by
    rw [iterationErr_iff, isOverflowed_iff, isOverflowed_iff]
    omega
  have hunf : ¬ (isUnderflowed a || isUnderflowed b ||
      decide (floatExp a + floatExp b < 0o20000 + 0o40000)) = true := by
    simp only [Bool.or_eq_true, isUnderflowed_iff, decide_eq_true_eq]
    omega
  exact (if_neg herr).trans ((if_neg (by omega)).trans (if_neg hunf))

theorem fMul_err_iff {a b : Word} : (fMul a b).2 = true ↔ iterationErr a b = true := by
  refine ⟨fun h => ?_, fun h => by rw [fMul_of_err h]⟩
  by_contra herr
  simp only [show fMul a b = _ from if_neg herr] at h
  split at h
  · cases h
  · split at h <;> cases h

theorem fMul_comm (a b : Word) : fMul a b = fMul b a := by
  have hfree : mulFreeWord a b = mulFreeWord b a := ordered_comm Config.mulWord a b
  simp only [fMul]
  rw [hfree, integerProduct_comm, ordinaryProduct_comm, Bool.or_comm (isOverflowed a), Bool.or_comm (isUnderflowed a),
    Nat.add_comm (floatExp a)]
  simp only [and_comm (a := floatExp a = 0)]

theorem floatExp_integerProduct (r a b : Word) : floatExp (integerProduct r a b) = 0 := by
  simp only [integerProduct]
  split
  · rw [floatExp_packFloat, Nat.zero_mod]
  · split <;> rw [floatExp_packFloat, Nat.zero_mod]

/-! ## The coefficient product -/

/-- The product of the coefficients, of 96 bits. -/
def coefProduct (a b : Word) : Nat := floatCoef a * floatCoef b
theorem coefProduct_lt (a b : Word) : coefProduct a b < 2 ^ 96 :=
  Nat.lt_of_lt_of_eq (Nat.mul_lt_mul'' (floatCoef_lt a) (floatCoef_lt b)) (Nat.pow_add 2 48 48).symm

theorem coefProduct_ge_of_normalized {a b : Word} (ha : isNormalized a = true) (hb : isNormalized b = true) :
    2 ^ 94 ≤ coefProduct a b :=
  le_of_eq_of_le (Nat.pow_add 2 47 47) (Nat.mul_le_mul (isNormalized_iff.1 ha) (isNormalized_iff.1 hb))

theorem correction_cases (x : Nat) : (correction x = 1 ∧ x < 2 ^ 95) ∨ (correction x = 0 ∧ 2 ^ 95 ≤ x) := by
  unfold correction
  split
  · next h => exact .inl ⟨rfl, h⟩
  · next h => exact .inr ⟨rfl, Nat.le_of_not_lt h⟩

/-- The value of a product is the coefficient product with its sign, at the exponent sum. -/
theorem floatValue_mul_floatValue (a b : Word) : floatValue a * floatValue b =
    withSign (productSign a b) (coefProduct a b) *
      (2 : Rat) ^ ((floatExp a + floatExp b : Nat) - 0o40060 - 0o40060 : Int) := by
  have hsign : withSign (productSign a b) (coefProduct a b) = signedCoef a * signedCoef b := by
    rw [signedCoef_eq_withSign, signedCoef_eq_withSign, productSign, coefProduct]
    cases floatSign a <;> cases floatSign b <;> simp [withSign]
  rw [hsign, floatValue_eq, floatValue_eq, Int.cast_mul, mul_mul_mul_comm, ← zpow_add₀ two_ne_zero]
  congr 2
  omega

/-- A word that holds the product has its magnitude. -/
theorem coefProduct_of_floatValue_eq {a b v : Word} (h : floatValue v = floatValue a * floatValue b) :
    (floatCoef v : Rat) * 2 ^ ((floatExp v : Int) - 0o40060) =
      coefProduct a b * 2 ^ ((floatExp a + floatExp b : Nat) - 0o40060 - 0o40060 : Int) := by
  rw [floatValue_eq, floatValue_mul_floatValue] at h
  simpa only [natAbs_signedCoef, natAbs_withSign] using (natAbs_of_mul_zpow_eq h).1

/-- The coefficient of `exactCoef` has 48 bits and the value of the product. -/
theorem exactCoef_eq_some {x c : Nat} (hx : x ≠ 0) (h : exactCoef x = some c) :
    c < 2 ^ 48 ∧ (c : Rat) * 2 ^ ((x.log2 : Int) - 47) = x := by
  simp only [exactCoef] at h
  split at h
  · cases h
  · split at h
    · next hn =>
      obtain rfl := Option.some.inj h
      have h48 : x < 2 ^ 48 := (Nat.log2_lt hx).1 (by omega)
      have hk : 48 - (x.log2 + 1) = 47 - x.log2 := by omega
      rw [hk]
      refine ⟨(shiftLeft_log2_bounds hx h48).2, ?_⟩
      rw [cast_shiftLeft_log2 hx h48, mul_assoc, ← zpow_add₀ two_ne_zero, sub_add_sub_cancel', sub_self, zpow_zero,
        mul_one]
    · next hn =>
      split at h
      · next hmod =>
        obtain rfl := Option.some.inj h
        obtain ⟨k, hk⟩ := Nat.exists_eq_add_of_le (Nat.le_of_not_le hn)
        have hlog : (x.log2 : Int) - 47 = k := by omega
        have hx' := Nat.lt_log2_self (n := x)
        rw [hk, Nat.add_comm, Nat.pow_add] at hx'
        rw [hk, Nat.add_sub_cancel_left] at hmod ⊢
        refine ⟨Nat.div_lt_of_lt_mul hx', ?_⟩
        rw [hlog, zpow_natCast]
        exact_mod_cast Nat.div_mul_cancel (Nat.dvd_of_mod_eq_zero hmod)
      · cases h

theorem exactCoef_isSome {x : Nat} (h40 : x % 2 ^ 40 = 0) (h : x % 2 ^ (x.log2 + 1 - 48) = 0) :
    ∃ c, exactCoef x = some c := by
  simp only [exactCoef, h40, h, ne_eq, not_true_eq_false, if_false, if_true]
  split
  · exact ⟨_, rfl⟩
  · exact ⟨_, rfl⟩

/-- Where 48 bits hold a number in some unit, its bits below the leading 48 are zero. -/
theorem low_bits_eq_zero {x c : Nat} {i j : Int} (hx : x ≠ 0) (hc : c < 2 ^ 48)
    (h : (c : Rat) * 2 ^ i = x * 2 ^ j) : x % 2 ^ (x.log2 + 1 - 48) = 0 := by
  have hx2 := Nat.log2_self_le hx
  rcases Int.le_total i j with hij | hij
  · have hcx : c = x * 2 ^ (j - i).toNat := (natCast_mul_zpow_eq_iff hij).1 h
    have hle := Nat.mul_le_mul_left x (Nat.two_pow_pos (j - i).toNat)
    have hlog : x.log2 < 48 := (Nat.log2_lt hx).2 (by omega)
    rw [Nat.sub_eq_zero_of_le hlog, Nat.pow_zero, Nat.mod_one]
  · have hxc : x = c * 2 ^ (i - j).toNat := (natCast_mul_zpow_eq_iff hij).1 h.symm
    generalize (i - j).toNat = k at hxc
    have hlog : x.log2 < 48 + k := by
      rw [Nat.log2_lt hx, hxc, Nat.pow_add]
      exact Nat.mul_lt_mul_of_pos_right hc (Nat.two_pow_pos k)
    rw [hxc]
    exact Nat.mod_eq_zero_of_dvd (Dvd.dvd.mul_left (Nat.pow_dvd_pow 2 (by rw [← hxc]; omega)) c)

/-! ## An ordinary product -/

/-- The exponent at which a normalized coefficient has the value of the product. -/
def normalExp (a b : Word) : Nat := floatExp a + floatExp b + (coefProduct a b).log2 + 1 - 0o40000 - 96

theorem normalExp_lt {a b : Word} (hx : coefProduct a b ≠ 0)
    (hhigh : floatExp a + floatExp b < 0o60000 + 0o40000) : normalExp a b < 0o60000 := by
  have hlog : (coefProduct a b).log2 < 96 := (Nat.log2_lt hx).2 (coefProduct_lt a b)
  unfold normalExp
  omega

theorem ne_zero_of_mod_ne_zero {x d : Nat} (h : x % d ≠ 0) : x ≠ 0 := by
  rintro rfl
  exact h (Nat.zero_mod d)

/-- What an ordinary product can be (R146, entry 24). -/
inductive ProductOutcome (r a b : Word) : Word → Prop where
  /-- Exact at the exponent sum, less the correction. -/
  | exact : coefProduct a b % 2 ^ (48 - correction (coefProduct a b)) = 0 → ProductOutcome r a b
      (packFloat (productSign a b) (floatExp a + floatExp b - 0o40000 - correction (coefProduct a b))
        (coefProduct a b / 2 ^ (48 - correction (coefProduct a b))))
  /-- Exact at an exponent `k` above that of the normalized form. -/
  | lower (c k : Nat) : coefProduct a b % 2 ^ (48 - correction (coefProduct a b)) ≠ 0 →
      exactCoef (coefProduct a b) = some c → c % 2 ^ k = 0 → normalExp a b + k < 2 ^ 15 → ProductOutcome r a b
      (packFloat (productSign a b) (normalExp a b + k) (c / 2 ^ k))
  /-- Not exact at an exponent in range: the coefficient is free. -/
  | free : coefProduct a b % 2 ^ (48 - correction (coefProduct a b)) ≠ 0 →
      (∀ c, exactCoef (coefProduct a b) = some c → c % 2 ^ (0o20000 - normalExp a b) ≠ 0) → ProductOutcome r a b
      (packFloat (productSign a b) (floatExp a + floatExp b - 0o40000 - correction (coefProduct a b))
        (freeCoef r a b))

theorem ordinaryProduct_outcome (r : Word) {a b : Word} (hhigh : floatExp a + floatExp b < 0o60000 + 0o40000) :
    ProductOutcome r a b (ordinaryProduct r a b) := by
  simp only [ordinaryProduct]
  split
  · next h => exact .exact h
  · next h =>
    split
    · next c hc =>
      split
      · next hl =>
        refine .free h fun c' hc' => ?_
        cases hc.symm.trans hc'
        exact hl
      · next hl =>
        have hexp := normalExp_lt (ne_zero_of_mod_ne_zero h) hhigh
        split
        · next hup => exact .lower c _ h hc hup (by omega)
        · exact .lower c _ h hc (of_not_not hl) (by omega)
    · next hc => exact .free h fun c hc' => by cases hc.symm.trans hc'

section
variable {a b : Word} (hlow : 0o20000 + 0o40000 ≤ floatExp a + floatExp b)
include hlow

theorem normalExp_sub : (normalExp a b : Int) - 0o40060 =
    ((coefProduct a b).log2 : Int) - 47 + ((floatExp a + floatExp b : Nat) - 0o40060 - 0o40060 : Int) := by
  unfold normalExp
  omega

/-- The coefficient of the normalized form, at its exponent, has the value of the product. -/
theorem exactCoef_mul_zpow {c : Nat} (hx : coefProduct a b ≠ 0) (hc : exactCoef (coefProduct a b) = some c) :
    (c : Rat) * 2 ^ ((normalExp a b : Int) - 0o40060) =
      coefProduct a b * 2 ^ ((floatExp a + floatExp b : Nat) - 0o40060 - 0o40060 : Int) := by
  rw [normalExp_sub hlow, zpow_add₀ two_ne_zero, ← mul_assoc, (exactCoef_eq_some hx hc).2]

theorem floatValue_lower {c k : Nat} (hx : coefProduct a b ≠ 0) (hc : exactCoef (coefProduct a b) = some c)
    (hk : c % 2 ^ k = 0) (hexp : normalExp a b + k < 2 ^ 15) :
    floatValue (packFloat (productSign a b) (normalExp a b + k) (c / 2 ^ k)) = floatValue a * floatValue b := by
  obtain ⟨hc48, hc⟩ := exactCoef_eq_some hx hc
  have hcoef : c / 2 ^ k < 2 ^ 48 := Nat.lt_of_le_of_lt (Nat.div_le_self _ _) hc48
  have hdiv := Nat.div_mul_cancel (Nat.dvd_of_mod_eq_zero hk)
  rw [floatValue_packFloat _ hexp hcoef, floatValue_mul_floatValue]
  generalize c / 2 ^ k = q at hdiv ⊢
  have hvalue : (q : Rat) * 2 ^ ((k : Int) + ((coefProduct a b).log2 - 47)) = coefProduct a b := by
    rw [zpow_add₀ two_ne_zero, ← mul_assoc, zpow_natCast, ← hc, ← hdiv]
    push_cast
    rfl
  rw [Nat.cast_add, add_comm, add_sub_assoc, normalExp_sub hlow, ← add_assoc, withSign_mul_zpow _ _ hvalue]

variable (hhigh : floatExp a + floatExp b < 0o60000 + 0o40000)
include hhigh

theorem floatExp_packFloat_sum (s : Bool) (c : Nat) :
    floatExp (packFloat s (floatExp a + floatExp b - 0o40000 - correction (coefProduct a b)) c) + 0o40000 +
      correction (coefProduct a b) = floatExp a + floatExp b := by
  have hcorr := correction_cases (coefProduct a b)
  rw [floatExp_packFloat]
  omega

theorem floatValue_exact (h : coefProduct a b % 2 ^ (48 - correction (coefProduct a b)) = 0) :
    floatValue (packFloat (productSign a b) (floatExp a + floatExp b - 0o40000 - correction (coefProduct a b))
      (coefProduct a b / 2 ^ (48 - correction (coefProduct a b)))) = floatValue a * floatValue b := by
  have hx := coefProduct_lt a b
  have hcorr := correction_cases (coefProduct a b)
  have hdiv := Nat.div_mul_cancel (Nat.dvd_of_mod_eq_zero h)
  have hcoef : coefProduct a b / 2 ^ (48 - correction (coefProduct a b)) < 2 ^ 48 := by
    rcases hcorr with ⟨hc, hx⟩ | ⟨hc, -⟩ <;> rw [hc] <;> omega
  rw [floatValue_packFloat _ (by omega) hcoef, floatValue_mul_floatValue]
  generalize coefProduct a b / 2 ^ (48 - correction (coefProduct a b)) = q at hdiv ⊢
  have hvalue : (q : Rat) * 2 ^ ((48 - correction (coefProduct a b) : Nat) : Int) = coefProduct a b := by
    rw [zpow_natCast]
    exact_mod_cast hdiv
  have hunit : ((floatExp a + floatExp b - 0o40000 - correction (coefProduct a b) : Nat) : Int) - 0o40060 =
      ((48 - correction (coefProduct a b) : Nat) : Int) +
        ((floatExp a + floatExp b : Nat) - 0o40060 - 0o40060 : Int) := by omega
  rw [hunit, withSign_mul_zpow _ _ hvalue]

/-- The value is exact, or the exponent is that of the rule. -/
theorem ProductOutcome.value_or_exponent {r w : Word} (h : ProductOutcome r a b w) :
    floatValue w = floatValue a * floatValue b ∨
      floatExp w + 0o40000 + correction (coefProduct a b) = floatExp a + floatExp b := by
  cases h with
  | exact h => exact .inl (floatValue_exact hlow hhigh h)
  | lower c k h hc hk hexp => exact .inl (floatValue_lower hlow (ne_zero_of_mod_ne_zero h) hc hk hexp)
  | free => exact .inr (floatExp_packFloat_sum hlow hhigh _ _)

/-- Where a word in range holds the product, and the matrix forms all its bits, the value is exact: the normalized
coefficient, shifted right to an exponent in range, loses no bit. -/
theorem ProductOutcome.value_of_representable {r w v : Word} (h : ProductOutcome r a b w)
    (hv : isInRange v = true) (hvalue : floatValue v = floatValue a * floatValue b)
    (h40 : coefProduct a b % 2 ^ 40 = 0) : floatValue w = floatValue a * floatValue b := by
  cases h with
  | exact h => exact floatValue_exact hlow hhigh h
  | lower c k h hc hk hexp => exact floatValue_lower hlow (ne_zero_of_mod_ne_zero h) hc hk hexp
  | free h hfree =>
    exfalso
    have hx := ne_zero_of_mod_ne_zero h
    have hscaled := coefProduct_of_floatValue_eq hvalue
    obtain ⟨c, hc⟩ := exactCoef_isSome h40 (low_bits_eq_zero hx (floatCoef_lt v) hscaled)
    refine hfree c hc ?_
    rw [← exactCoef_mul_zpow hlow hx hc] at hscaled
    rw [mul_zpow_sub_iff] at hscaled
    have hv := (isInRange_iff.1 hv).1
    rcases Nat.le_total (floatExp v) (normalExp a b) with hle | hle
    · rw [Nat.sub_eq_zero_of_le (Nat.le_trans hv hle), Nat.pow_zero, Nat.mod_one]
    · have hshift : c = floatCoef v * 2 ^ ((floatExp v : Int) - normalExp a b).toNat :=
        (natCast_mul_zpow_eq_iff (Int.ofNat_le.2 hle)).1 hscaled.symm
      rw [hshift]
      exact Nat.mod_eq_zero_of_dvd (Dvd.dvd.mul_left (Nat.pow_dvd_pow 2 (by omega)) _)

end

/-! ## Products of normalized operands -/

section
variable {a b : Word} (ha : isNormalized a = true) (hb : isNormalized b = true)
include ha hb

theorem log2_coefProduct : (coefProduct a b).log2 + 1 = 96 - correction (coefProduct a b) := by
  have hlow := coefProduct_ge_of_normalized ha hb
  have hhigh := coefProduct_lt a b
  have hx : coefProduct a b ≠ 0 := by omega
  have h94 : 94 ≤ (coefProduct a b).log2 := (Nat.le_log2 hx).2 hlow
  have h96 : (coefProduct a b).log2 < 96 := (Nat.log2_lt hx).2 hhigh
  have h95 := Nat.log2_lt (k := 95) hx
  rcases correction_cases (coefProduct a b) with ⟨hc, h⟩ | ⟨hc, h⟩ <;> omega

/-- Their product is normalized at the exponent of the rule, and exact where 48 bits hold it. -/
theorem ProductOutcome.of_normalized {r w : Word} (hlow : 0o20000 + 0o40000 ≤ floatExp a + floatExp b)
    (hhigh : floatExp a + floatExp b < 0o60000 + 0o40000) (h : ProductOutcome r a b w) :
    isNormalized w = true ∧ floatExp w + 0o40000 + correction (coefProduct a b) = floatExp a + floatExp b ∧
      (coefProduct a b % 2 ^ ((coefProduct a b).log2 + 1 - 48) = 0 → floatValue w = floatValue a * floatValue b) := by
  have hlog := log2_coefProduct ha hb
  have hplaces : (coefProduct a b).log2 + 1 - 48 = 48 - correction (coefProduct a b) := by omega
  rw [hplaces]
  cases h with
  | exact h =>
    refine ⟨?_, floatExp_packFloat_sum hlow hhigh _ _, fun _ => floatValue_exact hlow hhigh h⟩
    have hge := coefProduct_ge_of_normalized ha hb
    have hlt := coefProduct_lt a b
    rw [isNormalized_iff, floatCoef_packFloat]
    rcases correction_cases (coefProduct a b) with ⟨hc, h⟩ | ⟨hc, h⟩ <;> rw [hc] <;> omega
  | lower c k h hc hk hexp =>
    have hx := ne_zero_of_mod_ne_zero h
    obtain ⟨hc48, hvalue⟩ := exactCoef_eq_some hx hc
    rw [← mul_one (coefProduct a b : Rat), ← zpow_zero (2 : Rat)] at hvalue
    exact absurd (hplaces ▸ low_bits_eq_zero hx hc48 hvalue) h
  | free h hfree =>
    refine ⟨?_, floatExp_packFloat_sum hlow hhigh _ _, fun h0 => absurd h0 h⟩
    obtain ⟨hc47, hc48⟩ := or_topBit_bounds (floatCoef_lt r)
    rwa [isNormalized_iff, floatCoef_packFloat, freeCoef, ha, hb, Bool.and_self, if_pos rfl, Nat.mod_eq_of_lt hc48]

end

/-- Settles O58: the cases of the product, and the outcomes of an ordinary one. -/
theorem floatProducts : Obligations.FloatProducts := by
  intro a b
  refine ⟨fMul_comm a b, fMul_err_iff.trans iterationErr_iff, fun h => ?_, fun ha hb => ?_, fun h0 ha hb h => ?_,
    fun ha hb hlow hhigh => ?_⟩
  · rw [fMul_of_err (fMul_err_iff.1 h)]
    exact floatExp_forceExp _ _
  · rw [fMul_of_integers ha hb]
    exact floatExp_integerProduct _ a b
  · refine fMul_of_underflow ?_ h0 h
    rw [isOverflowed_eq_false] at ha hb
    rw [isUnderflowed_iff, isUnderflowed_iff] at h
    rw [iterationErr_iff, isOverflowed_iff, isOverflowed_iff]
    omega
  · have houtcome := ordinaryProduct_outcome (mulFreeWord a b) hhigh
    rw [fMul_of_ordinary ha hb hlow hhigh]
    refine ⟨houtcome.value_or_exponent hlow hhigh, fun v hv hvalue h40 => ?_, fun hna hnb => ?_⟩
    · rw [hvalue]
      exact houtcome.value_of_representable hlow hhigh hv hvalue h40
    · obtain ⟨hnormal, hexp, hexact⟩ := houtcome.of_normalized hna hnb hlow hhigh
      refine ⟨hnormal, hexp, fun v hv hvalue => Prod.ext (eq_of_floatValue_eq hnormal hv ?_) rfl⟩
      have hx := coefProduct_ge_of_normalized hna hnb
      rw [hvalue]
      exact hexact (low_bits_eq_zero (by omega) (floatCoef_lt v) (coefProduct_of_floatValue_eq hvalue))

end Sys2Proof.Machine

/-! # Proofs: approximations and iterations (40_numerics.md R148 to R151, R155) -/

namespace Sys2Proof.Machine

/-! ## Approximations -/

theorem fRecip_of_outOfRange {a : Word} (h : isOverflowed a = true ∨ isUnderflowed a = true) :
    fRecip a = (forceExp 0o60002 (Config.recipWord a), true) := by
  rw [fRecip, if_pos (by simpa using h)]

theorem fRecip_err_iff {a : Word} : (fRecip a).2 = true ↔ isOverflowed a = true ∨ isUnderflowed a = true := by
  refine ⟨fun herr => ?_, fun h => by rw [fRecip_of_outOfRange h]⟩
  by_contra h
  rw [fRecip, if_neg (by simpa using h)] at herr
  split at herr <;> cases herr

theorem floatExp_fRecip_of_err {a : Word} (h : (fRecip a).2 = true) : floatExp (fRecip a).1 = 0o60002 := by
  rw [fRecip_of_outOfRange (fRecip_err_iff.1 h)]
  exact floatExp_forceExp _ _

theorem fRsqrt_of_negative {a : Word} (h : isOverflowed a = true ∨ floatSign a = true) :
    fRsqrt a = (forceExp 0o60004 (Config.rsqrtWord a), true) := by
  rw [fRsqrt, if_pos (by simpa using h)]

theorem fRsqrt_of_tiny {a : Word} (hs : floatSign a = false) (he : floatExp a ≤ 3) :
    fRsqrt a = (forceExp 0o60004 (Config.rsqrtWord a), false) := by
  have hovf : isOverflowed a = false := isOverflowed_eq_false.2 (by omega)
  rw [fRsqrt, hovf, hs, if_neg (by decide), if_pos he]

theorem fRsqrt_err_iff {a : Word} : (fRsqrt a).2 = true ↔ isOverflowed a = true ∨ floatSign a = true := by
  refine ⟨fun herr => ?_, fun h => by rw [fRsqrt_of_negative h]⟩
  by_contra h
  rw [fRsqrt, if_neg (by simpa using h)] at herr
  split at herr <;> cases herr

/-- A negative, an overflowed and a tiny operand force the exponent, whether they signal or not (entry 42). -/
theorem floatExp_fRsqrt_of_forced {a : Word} (h : isOverflowed a = true ∨ floatSign a = true ∨ floatExp a ≤ 3) :
    floatExp (fRsqrt a).1 = 0o60004 := by
  by_cases hneg : isOverflowed a = true ∨ floatSign a = true
  · rw [fRsqrt_of_negative hneg]
    exact floatExp_forceExp _ _
  · obtain ⟨hovf, hs⟩ := not_or.1 hneg
    rw [fRsqrt_of_tiny (Bool.eq_false_of_not_eq_true hs) ((h.resolve_left hovf).resolve_left hs)]
    exact floatExp_forceExp _ _

/-! ## Iterations -/

/-- The special cases of an iteration whose operands are as its algorithm prescribes (entry 26). -/
theorem iterationWord_cases (r a b : Word) :
    (iterationErr a b = false ∨ floatExp (iterationWord r a b) = 0o60001) ∧
      (0o20000 + 0o40000 ≤ floatExp a + floatExp b ∨ iterationWord r a b = 0) := by
  constructor
  · cases herr : iterationErr a b with
    | false => exact .inl rfl
    | true => exact .inr (iterationWord_err herr)
  · by_cases hsum : 0o20000 + 0o40000 ≤ floatExp a + floatExp b
    · exact .inl hsum
    · have herr : ¬ iterationErr a b = true := by
        rw [iterationErr_iff, isOverflowed_iff, isOverflowed_iff]
        omega
      rw [iterationWord, if_neg herr, if_pos (Nat.lt_of_not_le hsum)]
      exact .inr rfl

theorem fRecipIter_of_from {a b : Word} (h : b = (fRecip a).1) :
    fRecipIter a b = (iterationWord (Config.recipIterWord a b) a b, iterationErr a b) := by
  rw [fRecipIter, if_pos h]

/-- An operand with one of the forced exponents of the approximations makes an iteration err. -/
theorem iterationErr_of_exp {a b : Word} (h : 0o60000 ≤ floatExp a ∨ 0o60000 ≤ floatExp b) :
    iterationErr a b = true := by
  rw [iterationErr_iff, isOverflowed_iff, isOverflowed_iff, ← or_assoc]
  exact .inl h

/-- Settles O59: the special cases of each function; an approximation that errs overflows, and so the iteration errs. -/
theorem floatApproximations : Obligations.FloatApproximations := by
  intro a b
  refine ⟨fRecip_err_iff, floatExp_fRecip_of_err, fRsqrt_err_iff,
    fun h => floatExp_fRsqrt_of_forced ((fRsqrt_err_iff.1 h).imp_right .inl),
    fun h => floatExp_fRsqrt_of_forced (.inr (.inr h)), fun he hs => by rw [fRsqrt_of_tiny hs he], ?_, ?_, ?_⟩
  · rintro _ (rfl | rfl) <;> exact iterationErr_iff
  · intro hb
    rw [fRecipIter_of_from hb]
    refine ⟨fun herr => iterationErr_of_exp (.inr ?_), iterationWord_cases _ a b⟩
    rw [hb, floatExp_fRecip_of_err herr]
    decide
  · intro x ha hb
    rw [fRsqrtIter_of_from ha.symm hb.symm]
    refine ⟨fun hx => iterationErr_of_exp (.inl ?_), iterationWord_cases _ a b⟩
    rw [ha, floatExp_fRsqrt_of_forced hx]
    decide

end Sys2Proof.Machine

/-! # Proofs: conversions (40_numerics.md R153, R154)

With an exponent of 40060 octal or more a value is an integer; below, it is the coefficient divided by a power of two.
The two branches of the fix are these two. -/

namespace Sys2Proof.Machine

/-! ## Integers as words -/

theorem signedWord_eq (s : Bool) (m : Nat) : signedWord s m = BitVec.ofInt 64 (withSign s m) := by
  cases s
  · exact (BitVec.ofInt_natCast 64 m).symm
  · exact (BitVec.ofInt_neg.trans (congrArg _ (BitVec.ofInt_natCast 64 m))).symm

theorem withSign_mul (s : Bool) (m n : Nat) : withSign s (m * n) = withSign s m * n := by
  cases s <;> simp [withSign]

/-- A number strictly between two neighbouring multiples. -/
theorem eq_ediv_of_between {c n : Int} {d : Nat} (hd : 0 < d) (hlow : n * d < c) (hhigh : c < (n + 1) * d) :
    n = c / d ∧ c % d ≠ 0 := by
  have hn : n = c / d := le_antisymm (Int.le_ediv_of_mul_le (by omega) (Int.le_of_lt hlow))
    (Int.lt_add_one_iff.1 (Int.ediv_lt_of_lt_mul (by omega) hhigh))
  refine ⟨hn, fun h0 => ?_⟩
  have := Int.mul_ediv_add_emod c d
  rw [h0, ← hn, Int.mul_comm] at this
  omega

/-- Cut to a multiple, a number with its sign is one of its two neighbours; one unit away from zero is the other. -/
theorem withSign_div_of_between {s : Bool} {c d : Nat} {n : Int} (hd : 0 < d) (hlow : n * d < withSign s c)
    (hhigh : withSign s c < (n + 1) * d) :
    c % d ≠ 0 ∧ ((withSign s (c / d) = n ∧ withSign s (c / d + 1) = n + 1) ∨
      (withSign s (c / d) = n + 1 ∧ withSign s (c / d + 1) = n)) := by
  cases s with
  | false =>
    obtain ⟨hdiv, hmod⟩ := eq_ediv_of_between (c := c) hd hlow hhigh
    refine ⟨by exact_mod_cast hmod, .inl ?_⟩
    simp [withSign, hdiv]
  | true =>
    change n * d < -(c : Int) at hlow
    change -(c : Int) < (n + 1) * d at hhigh
    obtain ⟨hdiv, hmod⟩ := eq_ediv_of_between (c := c) (n := -(n + 1)) hd (by linarith) (by linarith)
    refine ⟨by exact_mod_cast hmod, .inr ?_⟩
    simp only [withSign, if_true, Nat.cast_add, Nat.cast_one, Int.natCast_ediv]
    omega

/-! ## The value of an operand in range -/

theorem floatValue_of_exp_ge {a : Word} (h : 0o40060 ≤ floatExp a) :
    floatValue a = (withSign (floatSign a) (floatCoef a <<< (floatExp a - 0o40060)) : Int) := by
  obtain ⟨k, hk⟩ := Nat.exists_eq_add_of_le h
  rw [floatValue_eq, hk, Nat.shiftLeft_eq, withSign_mul, Nat.add_sub_cancel_left, signedCoef_eq_withSign, Nat.cast_add,
    Nat.cast_ofNat, add_sub_cancel_left, zpow_natCast]
  push_cast
  rfl

theorem floatValue_mul_of_exp_lt {a : Word} (h : floatExp a < 0o40060) :
    floatValue a * (2 ^ (0o40060 - floatExp a) : Nat) = signedCoef a := by
  rw [floatValue_eq, Nat.cast_pow, Nat.cast_ofNat, ← zpow_natCast, mul_assoc, ← zpow_add₀ two_ne_zero,
    Nat.cast_sub (Nat.le_of_lt h)]
  simp

/-! ## FFix -/

theorem fFix_of_underflowed {a : Word} (h : isUnderflowed a = true) : fFix a = (0, false) := by
  rw [fFix, if_pos h]

theorem fFix_of_overflowed {a : Word} (h : isOverflowed a = true) : fFix a = (0, true) := by
  have hunf : ¬ isUnderflowed a = true := by
    rw [isOverflowed_iff] at h
    rw [isUnderflowed_iff]
    omega
  rw [fFix, if_neg hunf, if_pos h]

section
variable {a : Word} (hrange : isInRange a = true)
include hrange

theorem fFix_of_exp_ge (h : 0o40060 ≤ floatExp a) : fFix a =
    if 2 ^ 48 ≤ floatCoef a <<< (floatExp a - 0o40060) then (0, true)
    else if 2 ^ 47 ≤ floatCoef a <<< (floatExp a - 0o40060) then (Config.fixWord a, Config.fixErr a)
    else (signedWord (floatSign a) (floatCoef a <<< (floatExp a - 0o40060)), false) := by
  simp only [isInRange, Bool.and_eq_true, Bool.not_eq_true'] at hrange
  obtain ⟨hovf, hunf⟩ := hrange
  simp only [fFix, hovf, hunf, if_pos h, Bool.false_eq_true, if_false]

theorem fFix_of_exp_lt (h : floatExp a < 0o40060) : fFix a =
    if 2 ^ 47 ≤ floatCoef a / 2 ^ (0o40060 - floatExp a) then (Config.fixWord a, Config.fixErr a)
    else if floatCoef a % 2 ^ (0o40060 - floatExp a) = 0 then
      (signedWord (floatSign a) (floatCoef a / 2 ^ (0o40060 - floatExp a)), false)
    else (signedWord (floatSign a) (if Config.fixAway a then floatCoef a / 2 ^ (0o40060 - floatExp a) + 1
      else floatCoef a / 2 ^ (0o40060 - floatExp a)), false) := by
  simp only [isInRange, Bool.and_eq_true, Bool.not_eq_true'] at hrange
  obtain ⟨hovf, hunf⟩ := hrange
  simp only [fFix, hovf, hunf, if_neg (Nat.not_le.2 h), Nat.shiftRight_eq_div_pow, Bool.false_eq_true, if_false]

/-- A value that is an integer of magnitude below 2^47 is answered. -/
theorem fFix_of_int {n : Int} (hvalue : floatValue a = n) (hn : |n| < 2 ^ 47) :
    fFix a = (BitVec.ofInt 64 n, false) := by
  rw [Int.abs_eq_natAbs] at hn
  rcases Nat.lt_or_ge (floatExp a) 0o40060 with he | he
  · rw [fFix_of_exp_lt hrange he]
    have hcoef := floatValue_mul_of_exp_lt he
    generalize 0o40060 - floatExp a = d at hcoef ⊢
    have hcoef : signedCoef a = n * (2 ^ d : Nat) := by
      rw [hvalue] at hcoef
      exact_mod_cast hcoef.symm
    have hmagnitude : floatCoef a = n.natAbs * 2 ^ d := by
      rw [← natAbs_signedCoef, hcoef, Int.natAbs_mul, Int.natAbs_natCast]
    have hmod : floatCoef a % 2 ^ d = 0 := by rw [hmagnitude, Nat.mul_mod_left]
    have hdiv : floatCoef a / 2 ^ d = n.natAbs := by rw [hmagnitude, Nat.mul_div_left _ (Nat.two_pow_pos d)]
    have hsigned : withSign (floatSign a) n.natAbs = n := by
      rw [signedCoef_eq_withSign, hmagnitude, withSign_mul] at hcoef
      exact Int.eq_of_mul_eq_mul_right (by positivity) hcoef
    rw [hmod, hdiv, if_neg (by omega), if_pos rfl, signedWord_eq, hsigned]
  · rw [fFix_of_exp_ge hrange he]
    rw [floatValue_of_exp_ge he, Int.cast_inj] at hvalue
    have hmagnitude := natAbs_withSign (floatSign a) (floatCoef a <<< (floatExp a - 0o40060))
    rw [hvalue] at hmagnitude
    rw [if_neg (by omega), if_neg (by omega), signedWord_eq, hvalue]

/-- A magnitude of 2^48 or more has an exponent for which the value is an integer. -/
theorem fFix_of_large (h : 2 ^ 48 ≤ |floatValue a|) : fFix a = (0, true) := by
  rcases Nat.lt_or_ge (floatExp a) 0o40060 with he | he
  · have hcoef := congrArg abs (floatValue_mul_of_exp_lt he)
    have hpos : (1 : Rat) ≤ (2 ^ (0o40060 - floatExp a) : Nat) := by exact_mod_cast Nat.two_pow_pos _
    have hle := le_mul_of_one_le_right (abs_nonneg (floatValue a)) hpos
    have hlt : (floatCoef a : Rat) < 2 ^ 48 := by exact_mod_cast floatCoef_lt a
    rw [abs_mul, Nat.abs_cast, ← Int.cast_abs, Int.abs_eq_natAbs, natAbs_signedCoef, Int.cast_natCast] at hcoef
    linarith
  · rw [floatValue_of_exp_ge he, ← Int.cast_abs, Int.abs_eq_natAbs, natAbs_withSign] at h
    rw [fFix_of_exp_ge hrange he, if_pos (by exact_mod_cast h)]

/-- A fraction is answered by one of its two neighbours. -/
theorem fFix_of_fraction {n : Int} (hlow : (n : Rat) < floatValue a) (hhigh : floatValue a < (n + 1 : Int))
    (hn : -2 ^ 47 < n) (hn' : n < 2 ^ 47 - 1) :
    fFix a = (BitVec.ofInt 64 n, false) ∨ fFix a = (BitVec.ofInt 64 (n + 1), false) := by
  rcases Nat.lt_or_ge (floatExp a) 0o40060 with he | he
  · rw [fFix_of_exp_lt hrange he]
    have hcoef := floatValue_mul_of_exp_lt he
    have hpos := Nat.two_pow_pos (0o40060 - floatExp a)
    generalize 2 ^ (0o40060 - floatExp a) = d at hcoef hpos ⊢
    have hposRat : (0 : Rat) < d := by exact_mod_cast hpos
    have hlow : n * d < signedCoef a := by
      rw [← Int.cast_lt (R := Rat), ← hcoef]
      push_cast
      exact mul_lt_mul_of_pos_right hlow hposRat
    have hhigh : signedCoef a < (n + 1) * d := by
      rw [← Int.cast_lt (R := Rat), ← hcoef]
      push_cast at hhigh ⊢
      exact mul_lt_mul_of_pos_right hhigh hposRat
    obtain ⟨hmod, hneighbours⟩ := withSign_div_of_between (s := floatSign a) (c := floatCoef a) hpos hlow hhigh
    have hsmall : ¬ 2 ^ 47 ≤ floatCoef a / d := by
      rw [← natAbs_withSign (floatSign a) (floatCoef a / d)]
      omega
    rw [if_neg hsmall, if_neg hmod, signedWord_eq]
    rcases hneighbours with ⟨hcut, hup⟩ | ⟨hcut, hup⟩ <;> split
    · exact .inr (by rw [hup])
    · exact .inl (by rw [hcut])
    · exact .inl (by rw [hup])
    · exact .inr (by rw [hcut])
  · rw [floatValue_of_exp_ge he, Int.cast_lt] at hlow hhigh
    omega

end

/-! ## FFlt -/

theorem fFloat_zero : fFloat 0 = (0, false) := by decide

theorem fFloat_of_ne_zero {a : Word} (hlow : -2 ^ 47 ≤ a.toInt) (hhigh : a.toInt < 2 ^ 47) (h0 : a.toInt.natAbs ≠ 0) :
    fFloat a = (packFloat (decide (a.toInt < 0)) (0o40001 + a.toInt.natAbs.log2)
      (a.toInt.natAbs <<< (47 - a.toInt.natAbs.log2)), false) := by
  simp only [fFloat, if_pos (And.intro hlow hhigh), if_neg h0]

theorem fFloat_no_err (a : Word) : (fFloat a).2 = false := by
  simp only [fFloat]
  split
  · split <;> rfl
  · rfl

/-- An integer other than zero becomes the normalized word of its value: the shift that puts its top bit in place is
made up for by the exponent. -/
theorem fFloat_value {a : Word} (hlow : -2 ^ 47 ≤ a.toInt) (hhigh : a.toInt < 2 ^ 47) (h : a ≠ 0) :
    isInRange (fFloat a).1 = true ∧ isNormalized (fFloat a).1 = true ∧ floatValue (fFloat a).1 = a.toInt := by
  have h0 : a.toInt.natAbs ≠ 0 := by
    rw [Int.natAbs_ne_zero]
    exact fun hz => h (BitVec.eq_of_toInt_eq hz)
  have hm : a.toInt.natAbs < 2 ^ 48 := by omega
  have hlog : a.toInt.natAbs.log2 < 48 := (Nat.log2_lt h0).2 hm
  obtain ⟨hc47, hc48⟩ := shiftLeft_log2_bounds h0 hm
  rw [fFloat_of_ne_zero hlow hhigh h0]
  refine ⟨?_, ?_, ?_⟩
  · rw [isInRange_iff, floatExp_packFloat]
    omega
  · rwa [isNormalized_iff, floatCoef_packFloat, Nat.mod_eq_of_lt hc48]
  · have hvalue : ((a.toInt.natAbs <<< (47 - a.toInt.natAbs.log2) : Nat) : Rat) *
        2 ^ (-(47 - (a.toInt.natAbs.log2 : Int))) = a.toInt.natAbs := by
      rw [cast_shiftLeft_log2 h0 hm, mul_assoc, ← zpow_add₀ two_ne_zero, add_neg_cancel, zpow_zero, mul_one]
    have hsigned := withSign_mul_zpow (decide (a.toInt < 0)) 0 hvalue
    rw [floatValue_packFloat _ (by omega) hc48, show ((0o40001 + a.toInt.natAbs.log2 : Nat) : Int) - 0o40060 =
      -(47 - (a.toInt.natAbs.log2 : Int)) + 0 by omega, hsigned, withSign_natAbs, zpow_zero, mul_one]

/-- Settles O60: each range of operands is a branch of the conversion. -/
theorem floatConversions : Obligations.FloatConversions := by
  intro a
  refine ⟨fun n hrange => fFix_of_int hrange, fFix_of_underflowed, ?_, fun n hrange => fFix_of_fraction hrange,
    fFloat_no_err a, fun hlow hhigh => ⟨?_, fFloat_value hlow hhigh⟩⟩
  · rintro (hovf | ⟨hrange, hlarge⟩)
    · exact fFix_of_overflowed hovf
    · exact fFix_of_large hrange hlarge
  · rintro rfl
    rw [fFloat_zero]

end Sys2Proof.Machine

/-! # Proofs: exits, jumps, Semaphore instructions and branches (41_branch_exit_semaphore.md)

The frames of the updates these instructions make, then one completion rule for each shape: jump, branch, Semaphore
set. -/

namespace Sys2Proof.Machine

/-! ## Frames -/

theorem frame_jumpTo (s : State) (c : Addr) : Frame s (s.jumpTo c) (· = .p) := by
  intro q hq
  cases q with
  | p => exact absurd rfl hq
  | _ => exact rfl

theorem frame_branch (s : State) (b : Bool) (c : Addr) : Frame s (s.branch b c) (· = .p) := by
  cases b with
  | true => exact frame_jumpTo s c
  | false => exact frame_advance s 3

theorem State.branch_p (s : State) (b : Bool) (c : Addr) : (s.branch b c).p = if b then c else s.p + 3 := by
  cases b <;> rfl

theorem frame_raise_exit (s : State) (jk : Short) : Frame s (s.raise (.exit jk))
    fun q => q = .p ∨ q = .exitCode ∨ q = .exitMode ∨ q = .idleMode ∨ q = .run := by
  intro q hq
  cases q with
  | p | exitCode | exitMode | idleMode | run => exact absurd (by simp) hq
  | _ => exact rfl

theorem frame_setSemBit (s : State) (b : Bool) : Frame s (s.setStatus { s.st with semBit := b }) (· = .semBit) := by
  intro q hq
  cases q with
  | semBit => exact absurd rfl hq
  | _ => exact rfl

/-! ## The assigned Semaphore flag (R39, R42) -/

section
variable {s : State} {n : Fin 8} (hn : n.val = s.st.semPtr.toNat)
include hn

theorem State.semFlag_eq : s.semFlag = s.sem[n] := by
  simp only [State.semFlag, Fin.getElem_fin, hn]

theorem State.setSemFlag_sem_same (b : Bool) : (s.setSemFlag b).sem[n] = b := by
  simp only [State.setSemFlag_sem, Fin.getElem_fin, hn, Vector.getElem_set_self]

theorem frame_setSemFlag (b : Bool) : Frame s (s.setSemFlag b) (· = .sem n) := by
  intro q hq
  cases q with
  | sem m =>
    refine s.setSemFlag_sem_ne b fun hm => hq ?_
    rw [Fin.ext (hm.trans hn.symm)]
  | _ => exact rfl

theorem frame_takeSem : Frame s s.takeSem fun q => q = .sem n ∨ q = .semBit :=
  (frame_setSemFlag hn true).trans (frame_setSemBit _ _)

theorem frame_releaseSem : Frame s s.releaseSem fun q => q = .sem n ∨ q = .semBit :=
  (frame_setSemFlag hn false).trans (frame_setSemBit _ _)

/-- 004, 005 and 006 take the flag, and then change P only: flag and status bit are those of `takeSem`. -/
theorem completes_of_takeSem {x : Instr} {u : State} {target : Addr} (h : exec x s = .next u)
    (hframe : Frame s.takeSem u (· = .p)) (hp : u.p = target) :
    Completes x s (fun q => q = .p ∨ q = .sem n ∨ q = .semBit) fun t =>
      t.sem[n] = true ∧ t.st.semBit = (s.st.semBit || !s.sem[n]) ∧ t.p = target := by
  have hflag : u.sem[n] = s.takeSem.sem[n] := hframe (.sem n) nofun
  have hbit : u.st.semBit = s.takeSem.st.semBit := hframe .semBit nofun
  refine ⟨u, h, ((frame_takeSem hn).trans hframe).mono fun _ => Or.symm, ?_, ?_, hp⟩
  · exact hflag.trans (State.setSemFlag_sem_same hn true)
  · rw [hbit, State.takeSem_st, State.semFlag_eq hn]

end

/-! ## Jumps and branches -/

theorem jumpsTo_of_exec {x : Instr} {s : State} {c : Addr} (h : exec x s = .next (s.jumpTo c)) : JumpsTo x s c :=
  ⟨_, h, frame_jumpTo s c, rfl⟩

theorem branchesOn_of_exec {x : Instr} {s : State} {b : Bool} {taken : Prop} {c : Addr}
    (h : exec x s = .next (s.branch b c)) (hb : b = true ↔ taken) : BranchesOn x s taken c := by
  refine ⟨fun ht => ⟨_, h, frame_branch s b c, ?_⟩, fun ht => ⟨_, h, frame_branch s b c, ?_⟩⟩
  · exact (s.branch_p b c).trans (if_pos (hb.2 ht))
  · exact (s.branch_p b c).trans (if_neg (mt hb.1 ht))

/-! ## The criteria of the branches (R173): the sign is the top bit -/

theorem isZero_iff {w : Nat} (x : BitVec w) : isZero x = true ↔ x = 0 := decide_eq_true_iff

theorem isNonzero_iff {w : Nat} (x : BitVec w) : isNonzero x = true ↔ x ≠ 0 := by
  rw [isNonzero, Bool.not_eq_true', ← Bool.not_eq_true, isZero_iff]

theorem isNegative_iff {w : Nat} (x : BitVec w) : isNegative x = true ↔ x.getLsbD (w - 1) = true := by
  rw [isNegative, BitVec.msb_eq_getLsbD_last]

theorem isPositive_iff {w : Nat} (x : BitVec w) : isPositive x = true ↔ x.getLsbD (w - 1) = false := by
  rw [isPositive, BitVec.msb_eq_getLsbD_last, Bool.not_eq_true']

/-! ## The obligations -/

/-- Settles O22: both forms raise the exit event, whose next state shows the flags. -/
theorem exits : Obligations.Exits := by
  intro s jk x hx
  have hexec : exec x s = .next (s.raise (.exit jk)) := by
    rcases hx with rfl | rfl <;> rfl
  exact ⟨_, hexec, frame_raise_exit s jk, rfl, rfl, rfl, rfl⟩

/-- Settles O23: 002 reads its target before it writes the return address, so i = k is no special case. -/
theorem jumps : Obligations.Jumps := by
  intro s i k c
  have hframe := ((frame_setA s i (s.p + 1)).trans (frame_jumpTo _ (s.getA k))).mono fun _ => Or.symm
  exact ⟨⟨_, rfl, hframe, s.getA_setA_same i (s.p + 1), rfl⟩, jumpsTo_of_exec rfl⟩

/-- Settles O24: the criterion is the flag before it is taken; 004 negates it. -/
theorem semaphoreJumps : Obligations.SemaphoreJumps := by
  intro s c n hn
  refine ⟨completes_of_takeSem hn rfl (frame_branch _ _ c) ?_, completes_of_takeSem hn rfl (frame_branch _ _ c) ?_⟩
  · rw [State.branch_p, State.takeSem_p, State.semFlag_eq hn]
    cases s.sem[n] <;> rfl
  · rw [State.branch_p, State.takeSem_p, State.semFlag_eq hn]

/-- Settles O25: 006 takes the flag and 007 releases it; both then pass one parcel. -/
theorem semaphoreSetClear : Obligations.SemaphoreSetClear := by
  intro s n hn
  refine ⟨completes_of_takeSem hn rfl (frame_advance _ 1) rfl, s.releaseSem.advance 1, rfl, ?_, ?_, rfl, rfl⟩
  · exact ((frame_releaseSem hn).trans (frame_advance _ 1)).mono fun _ => Or.symm
  · exact State.setSemFlag_sem_same hn false

/-- Settles O26: each is a branch on its criterion. -/
theorem branchesOnZeroAndSign : Obligations.BranchesOnZeroAndSign := by
  intro s j k c
  exact ⟨branchesOn_of_exec rfl (isZero_iff _), branchesOn_of_exec rfl (isNonzero_iff _),
    branchesOn_of_exec rfl (isNegative_iff _), branchesOn_of_exec rfl (isZero_iff _),
    branchesOn_of_exec rfl (isNonzero_iff _), branchesOn_of_exec rfl (isNegative_iff _)⟩

/-- Settles O27: positive is the top bit being 0, which zero has too (D3, entry 11). -/
theorem branchesOnPositive : Obligations.BranchesOnPositive := by
  intro s j k c
  exact ⟨branchesOn_of_exec rfl (isPositive_iff _), branchesOn_of_exec rfl (isPositive_iff _)⟩

end Sys2Proof.Machine

/-! # Proofs: address arithmetic, entries into A registers, the vector mask and the halt enables (42_address_vm_vl.md)

A result is stated as a number modulo 2^32 and computed on bit vectors; a control register or a halt enable is one piece
of the state, which its instruction updates before P moves past the one parcel. -/

namespace Sys2Proof.Machine

/-! ## Values as numbers (40_numerics.md R131, R134) -/

theorem sub_eq_ofInt {w : Nat} (x y : BitVec w) : x - y = BitVec.ofInt w (x.toNat - y.toNat : Int) := by
  rw [Int.sub_eq_add_neg, BitVec.ofInt_add, BitVec.ofInt_neg, BitVec.ofInt_natCast, BitVec.ofInt_natCast,
    BitVec.ofNat_toNat, BitVec.ofNat_toNat, BitVec.setWidth_eq, BitVec.setWidth_eq, BitVec.sub_eq_add_neg]

theorem mul_eq_ofNat {w : Nat} (x y : BitVec w) : x * y = BitVec.ofNat w (x.toNat * y.toNat) := rfl

/-- Ones above a field take away the field's range from its value (R208, 43_entry_local_memory.md R232). -/
theorem allOnes_append_eq_ofInt {m w : Nat} (hm : 0 < m) (x : BitVec w) :
    BitVec.allOnes m ++ x = BitVec.ofInt (m + w) (x.toNat - 2 ^ w : Int) := by
  have hvalue : (BitVec.allOnes m ++ x).toInt = (x.toNat - 2 ^ w : Int) := by
    rw [BitVec.toInt_append, BitVec.toInt_allOnes]
    simp only [hm, if_true, beq_iff_eq, hm.ne', if_false]
    omega
  rw [← hvalue, BitVec.ofInt_toInt]

/-! ## Updates of one piece -/

theorem frame_setVM (s : State) (x : Word) : Frame s (s.setVM x) (· = .vm) := by
  intro q hq
  cases q with
  | vm => exact absurd rfl hq
  | _ => exact rfl

theorem frame_setVL (s : State) (x : BitVec 6) : Frame s (s.setVL x) (· = .vl) := by
  intro q hq
  cases q with
  | vl => exact absurd rfl hq
  | _ => exact rfl

theorem frame_setEnRangeHalt (s : State) (b : Bool) : Frame s (s.setEnRangeHalt b) (· = .enRangeHalt) := by
  intro q hq
  cases q with
  | enRangeHalt => exact absurd rfl hq
  | _ => exact rfl

theorem frame_setEnFloatHalt (s : State) (b : Bool) : Frame s (s.setEnFloatHalt b) (· = .enFloatHalt) := by
  intro q hq
  cases q with
  | enFloatHalt => exact absurd rfl hq
  | _ => exact rfl

/-- An instruction of one parcel that updates the piece `q`, which is not P. -/
theorem completes_of_update {x : Instr} {s u : State} {q : Piece} {post : State → Prop}
    (h : exec x s = .next (u.advance 1)) (hframe : Frame s u (· = q)) (hq : .p ≠ q) (hpost : post (u.advance 1)) :
    Completes x s (fun r => r = .p ∨ r = q) fun t => post t ∧ s.Advanced t 1 := by
  have hp : u.p = s.p := hframe .p hq
  exact ⟨_, h, (hframe.trans (frame_advance u 1)).mono fun _ => Or.symm, hpost, congrArg (· + 1) hp⟩

theorem completes_of_setVM {x : Instr} {s : State} {v : Word} {post : State → Prop}
    (h : exec x s = .next ((s.setVM v).advance 1)) (hpost : post ((s.setVM v).advance 1)) :
    Completes x s (fun q => q = .p ∨ q = .vm) fun t => post t ∧ s.Advanced t 1 :=
  completes_of_update h (frame_setVM s v) nofun hpost

theorem completes_of_setVL {x : Instr} {s : State} {a : Addr}
    (h : exec x s = .next ((s.setVL (a.setWidth 6)).advance 1)) :
    Completes x s (fun q => q = .p ∨ q = .vl) fun t => t.vl.toNat = a.toNat % 64 ∧ s.Advanced t 1 :=
  completes_of_update h (frame_setVL s _) nofun (BitVec.toNat_setWidth 6 a)

theorem completes_of_setEnRangeHalt {x : Instr} {s : State} {b : Bool}
    (h : exec x s = .next ((s.setEnRangeHalt b).advance 1)) :
    Completes x s (fun q => q = .p ∨ q = .enRangeHalt) fun t => t.st.enRangeHalt = b ∧ s.Advanced t 1 :=
  completes_of_update h (frame_setEnRangeHalt s b) nofun rfl

theorem completes_of_setEnFloatHalt {x : Instr} {s : State} {b : Bool}
    (h : exec x s = .next ((s.setEnFloatHalt b).advance 1)) :
    Completes x s (fun q => q = .p ∨ q = .enFloatHalt) fun t => t.st.enFloatHalt = b ∧ s.Advanced t 1 :=
  completes_of_update h (frame_setEnFloatHalt s b) nofun rfl

/-! ## Vector masks (R209) -/

theorem isNonzero_eq_decide {w : Nat} (x : BitVec w) : isNonzero x = decide (x ≠ 0) :=
  Bool.eq_iff_iff.2 ((isNonzero_iff x).trans decide_eq_true_iff.symm)

theorem isNegative_eq_getLsbD {w : Nat} (x : BitVec w) : isNegative x = x.getLsbD (w - 1) :=
  BitVec.msb_eq_getLsbD_last x

theorem isPositive_eq_not_getLsbD {w : Nat} (x : BitVec w) : isPositive x = !x.getLsbD (w - 1) :=
  congrArg not (BitVec.msb_eq_getLsbD_last x)

theorem completes_of_deliverMask {x : Instr} {s : State} {k : Reg} {test : Word → Bool}
    (hx : exec x s = s.deliverMask k test) :
    Completes x s (fun q => q = .p ∨ q = .vm) fun t =>
      (∀ e, e < 64 → t.vm.getLsbD (63 - e) = (decide (e < s.vlen) && test (s.elem k e))) ∧ s.Advanced t 1 :=
  completes_of_setVM hx fun _ he => maskBit_maskOf (fun e => test (s.elem k e)) s.vlen_bounds.2 he

/-! ## The obligations -/

/-- Settles O28: each is a delivery of the sum, difference or product modulo 2^32 (entry 10). -/
theorem addressArithmetic : Obligations.AddressArithmetic := by
  intro s i j k
  rw [← BitVec.add_def, ← sub_eq_ofInt, ← mul_eq_ofNat]
  exact ⟨deliversA_of_exec rfl, deliversA_of_exec rfl, deliversA_of_exec rfl, deliversA_of_exec rfl⟩

/-- Settles O29: a value with zeros above it is the same number, and one with ones above it is the negative one. -/
theorem entriesIntoA : Obligations.EntriesIntoA := by
  intro s i j jk h c
  have hshort : shortNegA jk = BitVec.ofInt 32 (jk.toNat - 64 : Int) := allOnes_append_eq_ofInt (by decide) jk
  have hparcel : parcelNegA h = BitVec.ofInt 32 (h.toNat - 65536 : Int) := allOnes_append_eq_ofInt (by decide) h
  rw [← hshort, ← hparcel]
  simp only [BitVec.ofNat_toNat]
  exact ⟨deliversA_of_exec rfl, deliversA_of_exec rfl, deliversA_of_exec rfl, deliversA_of_exec rfl,
    deliversA_of_exec rfl, deliversA_of_exec rfl, deliversA_of_exec rfl, deliversA_of_exec rfl⟩

/-- Settles O30: each is `deliverMask` of its test, which the statement writes out. -/
theorem vectorMasks : Obligations.VectorMasks := by
  intro s k x test hx
  apply completes_of_deliverMask
  rcases hx with ⟨rfl, rfl⟩ | ⟨rfl, rfl⟩ | ⟨rfl, rfl⟩ | ⟨rfl, rfl⟩
  · rfl
  · exact congrArg (s.deliverMask k) (funext isNonzero_eq_decide)
  · exact congrArg (s.deliverMask k) (funext isPositive_eq_not_getLsbD)
  · exact congrArg (s.deliverMask k) (funext isNegative_eq_getLsbD)

/-- Settles O31: 034, 036 and 037 update one control register, and 114 is a delivery. -/
theorem vectorControl : Obligations.VectorControl := by
  intro s i j k
  exact ⟨completes_of_setVM rfl rfl, completes_of_setVL rfl, completes_of_setVL rfl, deliversS_of_exec rfl⟩

/-- Settles O32: each form updates its own enable, and no other bit of the status register. -/
theorem haltEnables : Obligations.HaltEnables := by
  intro s
  exact ⟨completes_of_setEnRangeHalt rfl, completes_of_setEnRangeHalt rfl,
    completes_of_setEnFloatHalt rfl, completes_of_setEnFloatHalt rfl⟩

end Sys2Proof.Machine

/-! # Proofs: the words the spec prints (30_encoding.md R101 to R109) -/

namespace Sys2Proof

theorem decode_of_encode {x : Instr} {l : List Parcel} (hl : encode x = l) (hx : x.wellFormed = true) :
    decode l = .ok (x, []) := by
  have h := decodeEncode x hx []
  rwa [List.append_nil, hl] at h

/-- Settles O2: each word is the encoding of its instruction, and so decodes to it (O1). -/
theorem decodeWords : Obligations.DecodeWords :=
  ⟨decode_of_encode (by decide) rfl, decode_of_encode (by decide) rfl, decode_of_encode (by decide) rfl,
    decode_of_encode (by decide) rfl, decode_of_encode (by decide) rfl, decode_of_encode (by decide) rfl,
    decode_of_encode (by decide) rfl, decode_of_encode (by decide) rfl, decode_of_encode (by decide) rfl⟩

end Sys2Proof

/-! # Proofs: entries into S registers (43_entry_local_memory.md R239 to R242; R307, R308, R329, R330)

Each entry is a delivery of a constant or of (A_k); what is to be shown is that the parcels laid side by side are the
number the statement names. -/

namespace Sys2Proof.Machine

/-- Zeros below a value multiply it (R241). -/
theorem append_zero_eq_ofNat {w m : Nat} (x : BitVec w) :
    x ++ (0 : BitVec m) = BitVec.ofNat (w + m) (x.toNat * 2 ^ m) := by
  apply BitVec.eq_of_toNat_eq
  have hlt : x.toNat * 2 ^ m < 2 ^ (w + m) :=
    Nat.pow_add 2 w m ▸ Nat.mul_lt_mul_of_pos_right x.isLt (Nat.two_pow_pos m)
  rw [BitVec.toNat_append, BitVec.toNat_ofNat, Nat.mod_eq_of_lt hlt, Nat.shiftLeft_eq]
  exact Nat.or_zero _

/-- Settles O34: zeros above a value leave its number, ones above take 2^w away, zeros below multiply; the sign extension
of 131 is the signed number by definition. -/
theorem entriesIntoS : Obligations.EntriesIntoS := by
  intro s i k jk c w
  have hones : onesExtend c = BitVec.ofInt 64 (c.toNat - 2 ^ 32 : Int) := allOnes_append_eq_ofInt (by decide) c
  have hleft : leftHalf c = BitVec.ofNat 64 (c.toNat * 2 ^ 32) := append_zero_eq_ofNat c
  have hshort : shortNegS jk = BitVec.ofInt 64 (jk.toNat - 64 : Int) := allOnes_append_eq_ofInt (by decide) jk
  rw [← hones, ← hleft, ← hshort]
  simp only [BitVec.ofNat_toNat]
  exact ⟨deliversS_of_exec rfl, deliversS_of_exec rfl, deliversS_of_exec rfl, deliversS_of_exec rfl,
    deliversS_of_exec rfl, deliversS_of_exec rfl, deliversS_of_exec rfl, deliversS_of_exec rfl⟩

end Sys2Proof.Machine

/-! # Proofs: passes (44_common_memory.md R275, R276; 46_scalar_float.md R333 to R336)

A pass only advances P by its one parcel, which is a jump to the next parcel. -/

namespace Sys2Proof.Machine

theorem passes_of_exec {x : Instr} {s : State} (h : exec x s = .next (s.advance 1)) : Passes x s :=
  jumpsTo_of_exec h

/-- Settles O42: each of the six is executed as an advance past one parcel. -/
theorem passesDoNothing : Obligations.PassesDoNothing := by
  intro s x hx
  apply passes_of_exec
  simp only [List.mem_cons, List.not_mem_nil, or_false] at hx
  rcases hx with rfl | rfl | rfl | rfl | rfl | rfl
  · rfl -- 076
  · rfl -- 077
  · rfl -- 134
  · rfl -- 135
  · rfl -- 136
  · rfl -- 137

end Sys2Proof.Machine

/-! # Proofs: scalar logical, integer, count and shift instructions, and the read of the clock
(45_scalar_logical_integer_shift.md R291 to R306)

Each is a delivery to S_i (`State.deliverS`); what is to be shown is that the word delivered is the one the statement
describes: bit by bit, as a number, as a count, or as the part of the two joined registers that a shift brings into the
window. -/

namespace Sys2Proof.Machine

/-- An instruction that delivers `w` delivers every description of it. -/
theorem deliversS_of_deliverS {x : Instr} {s : State} {i : Reg} {v w : Word} (h : exec x s = s.deliverS i w)
    (hw : w = v) : DeliversS x s i v 1 :=
  hw ▸ deliversS_of_exec h

/-! ## Counts of bits (00_scope.md R12) -/

theorem onesBelow_eq_length_filter (w : Word) (n : Nat) :
    onesBelow w n = ((List.range n).filter fun m => w.getLsbD m).length := by
  induction n with
  | zero => rfl
  | succ n ih =>
    rw [onesBelow, ih, List.range_succ, List.filter_append, List.length_append]
    cases h : w.getLsbD n <;> simp [h]

theorem log2_toNat_of_highest {w : Nat} {x : BitVec w} {k : Nat} (hbit : x.getLsbD k = true)
    (habove : ∀ m, k < m → x.getLsbD m = false) : x.toNat.log2 = k := by
  have hle : 2 ^ k ≤ x.toNat := Nat.ge_two_pow_of_testBit hbit
  have hlt : x.toNat < 2 ^ (k + 1) := Nat.lt_pow_two_of_testBit _ habove
  have hne : x.toNat ≠ 0 := (Nat.lt_of_lt_of_le (Nat.two_pow_pos k) hle).ne'
  exact (Nat.log2_eq_iff hne).2 ⟨hle, hlt⟩

/-- The count is the place, from the top, of the highest 1 bit. -/
theorem lzcount_of_highest {w : Word} {n : Nat} (hn : n < 64) (hbit : w.getLsbD (63 - n) = true)
    (hzeros : ∀ m, m < n → w.getLsbD (63 - m) = false) : lzcount w = n := by
  have hne : w ≠ 0 := by
    rintro rfl
    exact absurd hbit (by simp)
  have habove : ∀ m, 63 - n < m → w.getLsbD m = false := by
    intro m hm
    by_cases h : m < 64
    · have hzero := hzeros (63 - m) (by omega)
      rwa [show 63 - (63 - m) = m by omega] at hzero
    · exact BitVec.getLsbD_of_ge w m (by omega)
  rw [lzcount, if_neg hne, log2_toNat_of_highest hbit habove]
  omega

/-! ## Shifts as numbers -/

theorem shiftLeft_eq_ofNat {w : Nat} (x : BitVec w) (n : Nat) : x <<< n = BitVec.ofNat w (x.toNat * 2 ^ n) := by
  apply BitVec.eq_of_toNat_eq
  rw [BitVec.toNat_shiftLeft, BitVec.toNat_ofNat, Nat.shiftLeft_eq]

theorem ushiftRight_eq_ofNat {w : Nat} (x : BitVec w) (n : Nat) : x >>> n = BitVec.ofNat w (x.toNat / 2 ^ n) := by
  rw [← Nat.shiftRight_eq_div_pow, ← BitVec.toNat_ushiftRight, BitVec.ofNat_toNat, BitVec.setWidth_eq]

/-! ## Double shifts (R303, R304)

A bit of the window is a bit of the 128 bits `hi : lo`. Up to 64 places the window holds bits of both words, of which
the shift by n has filled in n; from 64 places on it holds bits of one word only, so that the shift is open-ended. -/

theorem getLsbD_doubleLeft (hi lo : Word) {n m : Nat} (hm : m < 64) :
    (doubleLeft hi lo n).getLsbD m = (!decide (64 + m < n) && (hi ++ lo).getLsbD (64 + m - n)) := by
  by_cases hn : 128 ≤ n
  · rw [doubleLeft_of_le hi lo hn, decide_eq_true (by omega), Bool.not_true, Bool.false_and]
    exact BitVec.getLsbD_zero
  · have h128 : 64 + m < 64 + 64 := by omega
    rw [doubleLeft, if_neg hn, BitVec.getLsbD_extractLsb', BitVec.getLsbD_shiftLeft]
    simp only [hm, h128, decide_true, Bool.true_and]

theorem getLsbD_doubleRight (hi lo : Word) {n m : Nat} (hm : m < 64) :
    (doubleRight hi lo n).getLsbD m = (hi ++ lo).getLsbD (n + m) := by
  by_cases hn : 128 ≤ n
  · rw [doubleRight_of_le hi lo hn, BitVec.getLsbD_of_ge _ (n + m) (by omega)]
    exact BitVec.getLsbD_zero
  · simp [doubleRight, hn, hm]

theorem doubleLeft_of_le_64 (hi lo : Word) {n : Nat} (hn : n ≤ 64) :
    doubleLeft hi lo n = hi <<< n ||| lo >>> (64 - n) := by
  apply BitVec.eq_of_getLsbD_eq
  intro m hm
  rw [getLsbD_doubleLeft hi lo hm, BitVec.getLsbD_append, BitVec.getLsbD_or, BitVec.getLsbD_shiftLeft,
    BitVec.getLsbD_ushiftRight, decide_eq_false (show ¬ 64 + m < n by omega)]
  by_cases hmn : m < n
  · -- filled in from the high end of `lo`
    have hlo : 64 + m - n < 64 := by omega
    have hplace : 64 - n + m = 64 + m - n := by omega
    simp [hmn, hlo, hplace]
  · -- moved up within `hi`, past the end of `lo`
    have hhi : ¬ 64 + m - n < 64 := by omega
    have hplace : 64 + m - n - 64 = m - n := by omega
    have hpast : lo.getLsbD (64 - n + m) = false := BitVec.getLsbD_of_ge lo _ (by omega)
    simp [hm, hmn, hhi, hplace, hpast]

theorem doubleLeft_of_ge_64 (hi lo : Word) {n : Nat} (hn : 64 ≤ n) : doubleLeft hi lo n = lo <<< (n - 64) := by
  apply BitVec.eq_of_getLsbD_eq
  intro m hm
  rw [getLsbD_doubleLeft hi lo hm, BitVec.getLsbD_append, BitVec.getLsbD_shiftLeft]
  by_cases hmn : 64 + m < n
  · have hlow : m < n - 64 := by omega
    simp [hmn, hlow]
  · have hlo : 64 + m - n < 64 := by omega
    have hlow : ¬ m < n - 64 := by omega
    have hplace : m - (n - 64) = 64 + m - n := by omega
    simp [hm, hmn, hlo, hlow, hplace]

theorem doubleRight_of_le_64 (hi lo : Word) {n : Nat} (hn : n ≤ 64) :
    doubleRight hi lo n = lo >>> n ||| hi <<< (64 - n) := by
  apply BitVec.eq_of_getLsbD_eq
  intro m hm
  rw [getLsbD_doubleRight hi lo hm, BitVec.getLsbD_append, BitVec.getLsbD_or, BitVec.getLsbD_shiftLeft,
    BitVec.getLsbD_ushiftRight]
  by_cases hmn : n + m < 64
  · -- moved down within `lo`, below what is filled in
    have hlow : m < 64 - n := by omega
    simp [hmn, hlow]
  · -- filled in from the low end of `hi`, past the end of `lo`
    have hhigh : ¬ m < 64 - n := by omega
    have hplace : m - (64 - n) = n + m - 64 := by omega
    have hpast : lo.getLsbD (n + m) = false := BitVec.getLsbD_of_ge lo _ (by omega)
    simp [hm, hmn, hhigh, hplace, hpast]

theorem doubleRight_of_ge_64 (hi lo : Word) {n : Nat} (hn : 64 ≤ n) : doubleRight hi lo n = hi >>> (n - 64) := by
  apply BitVec.eq_of_getLsbD_eq
  intro m hm
  have hhi : ¬ n + m < 64 := by omega
  have hplace : n + m - 64 = n - 64 + m := by omega
  rw [getLsbD_doubleRight hi lo hm, BitVec.getLsbD_append, BitVec.getLsbD_ushiftRight, if_neg hhi, hplace]

@[simp] theorem doubleLeft_zero (hi lo : Word) : doubleLeft hi lo 0 = hi := by
  simp [doubleLeft_of_le_64, BitVec.ushiftRight_eq_zero]

@[simp] theorem doubleRight_zero (hi lo : Word) : doubleRight hi lo 0 = lo := by
  simp [doubleRight_of_le_64, BitVec.shiftLeft_eq_zero]

@[simp] theorem doubleLeft_64 (hi lo : Word) : doubleLeft hi lo 64 = lo := by
  simp [doubleLeft_of_ge_64]

@[simp] theorem doubleRight_64 (hi lo : Word) : doubleRight hi lo 64 = hi := by
  simp [doubleRight_of_ge_64]

theorem deliversS_doubleShifts {s : State} {i j k : Reg} {n : Nat} {v w : Word} (hn : n = (s.getA k).toNat)
    (hleft : doubleLeft (s.getS i) (s.getS j) n = v) (hright : doubleRight (s.getS j) (s.getS i) n = w) :
    DeliversS (.doubleShiftLeftS i j k) s i v 1 ∧ DeliversS (.doubleShiftRightS i j k) s i w 1 := by
  subst hn
  exact ⟨deliversS_of_deliverS rfl hleft, deliversS_of_deliverS rfl hright⟩

/-! ## The obligations -/

/-- Settles O43: each of the four is a bitwise operation on words, and the library says what its bits are. -/
theorem scalarLogical : Obligations.ScalarLogical := by
  intro s i j k x op hx
  rcases hx with ⟨rfl, rfl⟩ | ⟨rfl, rfl⟩ | ⟨rfl, rfl⟩ | ⟨rfl, rfl⟩
  · exact ⟨_, deliversS_of_exec rfl, fun _ _ => BitVec.getLsbD_and⟩
  · refine ⟨_, deliversS_of_exec rfl, fun n hn => ?_⟩
    rw [BitVec.getLsbD_and, BitVec.getLsbD_not, decide_eq_true hn, Bool.true_and]
  · exact ⟨_, deliversS_of_exec rfl, fun _ _ => BitVec.getLsbD_xor⟩
  · exact ⟨_, deliversS_of_exec rfl, fun _ _ => BitVec.getLsbD_or⟩

/-- Settles O44: the words delivered are the model's sum, difference and counts, which the lemmas above describe. -/
theorem scalarIntegers : Obligations.ScalarIntegers := by
  intro s i j k
  rw [← BitVec.add_def, ← sub_eq_ofInt, ← onesBelow_eq_length_filter]
  exact ⟨deliversS_of_exec rfl, deliversS_of_exec rfl, deliversS_of_exec rfl, deliversS_of_exec rfl,
    fun hzero => deliversS_of_deliverS rfl (congrArg (BitVec.ofNat 64) (if_pos hzero)),
    fun n hn hbit hzeros =>
      deliversS_of_deliverS rfl (congrArg (BitVec.ofNat 64) (lzcount_of_highest hn hbit hzeros))⟩

/-- Settles O45: a single shift is a product or a quotient by a power of 2; a double shift is one of the forms of the
window, by its count. -/
theorem scalarShifts : Obligations.ScalarShifts := by
  intro s i j k jk n hn
  refine ⟨fun hjk => deliversS_of_deliverS rfl (if_pos hjk),
    fun hjk => deliversS_of_deliverS rfl ((if_neg hjk.ne').trans (shiftLeft_eq_ofNat _ _)),
    deliversS_of_deliverS rfl (ushiftRight_eq_ofNat _ _), ?zero, ?below64, ?at64, ?below128, ?from128⟩
  case zero =>
    rintro rfl
    exact deliversS_doubleShifts hn (doubleLeft_zero _ _) (doubleRight_zero _ _)
  case below64 =>
    intro _ h64
    exact deliversS_doubleShifts hn (doubleLeft_of_le_64 _ _ h64.le) (doubleRight_of_le_64 _ _ h64.le)
  case at64 =>
    rintro rfl
    exact deliversS_doubleShifts hn (doubleLeft_64 _ _) (doubleRight_64 _ _)
  case below128 =>
    intro h64 _
    exact deliversS_doubleShifts hn (doubleLeft_of_ge_64 _ _ h64.le) (doubleRight_of_ge_64 _ _ h64.le)
  case from128 =>
    intro h128
    exact deliversS_doubleShifts hn (doubleLeft_of_le _ _ h128) (doubleRight_of_le _ _ h128)

/-- Settles O46: the step runs 115 on the ticked state (entry 41), whose clock is `clockNext`; the delivery leaves that
clock as it is. -/
theorem readClock : Obligations.ReadClock := by
  intro s i
  refine ⟨deliversS_of_exec rfl, fun t l rest hrun hfield hfetch hdecode hstep => ?_⟩
  rw [step_of_decode hrun hfield hfetch hdecode] at hstep
  obtain rfl : ((s.tick.fill l.length).setS i s.clockNext).advance 1 = t := Host.Outcome.next.inj hstep
  have hread : (((s.tick.fill l.length).setS i s.clockNext).advance 1).getS i = s.clockNext :=
    State.getS_setS_same _ i _
  rw [hread]
  exact ⟨rfl, State.clockNext_gt⟩

end Sys2Proof.Machine

/-! # Proofs: vector shifts (47_vector_logical_shift.md R359 to R362)

The statements give each element as a number: a product or a quotient by a power of 2, cut to 64 bits. So the shifts of
the model are said as numbers first, for every count; the counts from the width on, which the model treats apart, come
out as zeros there by themselves. -/

namespace Sys2Proof.Machine

/-! ## Single shifts as numbers -/

theorem guarded_shiftLeft_eq_ofNat {w : Nat} (x : BitVec w) (n : Nat) :
    (if w ≤ n then 0 else x <<< n) = BitVec.ofNat w (x.toNat * 2 ^ n) := by
  rw [← shiftLeft_eq_ofNat]
  exact ite_eq_right_iff.2 fun h => (BitVec.shiftLeft_eq_zero h).symm

theorem guarded_ushiftRight_eq_ofNat {w : Nat} (x : BitVec w) (n : Nat) :
    (if w ≤ n then 0 else x >>> n) = BitVec.ofNat w (x.toNat / 2 ^ n) := by
  rw [← ushiftRight_eq_ofNat]
  exact ite_eq_right_iff.2 fun h => (BitVec.ushiftRight_eq_zero h).symm

/-! ## Double shifts as numbers -/

theorem toNat_append_eq_add {m w : Nat} (hi : BitVec m) (lo : BitVec w) :
    (hi ++ lo).toNat = hi.toNat * 2 ^ w + lo.toNat := by
  rw [BitVec.toNat_append, ← Nat.shiftLeft_add_eq_or_of_lt lo.isLt, Nat.shiftLeft_eq]

/-- The window of 152: what the shift brings above the 128 bits falls to the cut to 64 bits. -/
theorem doubleLeft_eq_ofNat (hi lo : Word) (n : Nat) :
    doubleLeft hi lo n = BitVec.ofNat 64 ((hi.toNat * 2 ^ 64 + lo.toNat) * 2 ^ n / 2 ^ 64) := by
  have hwindow : doubleLeft hi lo n = ((hi ++ lo) <<< n).extractLsb' 64 64 :=
    ite_eq_right_iff.2 fun h => by rw [BitVec.shiftLeft_eq_zero h]; rfl
  apply BitVec.eq_of_toNat_eq
  rw [hwindow, BitVec.extractLsb'_toNat, BitVec.toNat_shiftLeft, toNat_append_eq_add, Nat.shiftLeft_eq,
    Nat.shiftRight_eq_div_pow, BitVec.toNat_ofNat, pow_add, Nat.mod_mul_right_div_self, Nat.mod_mod]

/-- The window of 153. -/
theorem doubleRight_eq_ofNat (hi lo : Word) (n : Nat) :
    doubleRight hi lo n = BitVec.ofNat 64 ((hi.toNat * 2 ^ 64 + lo.toNat) / 2 ^ n) := by
  have hwindow : doubleRight hi lo n = ((hi ++ lo) >>> n).extractLsb' 0 64 :=
    ite_eq_right_iff.2 fun h => by rw [BitVec.ushiftRight_eq_zero h]; rfl
  apply BitVec.eq_of_toNat_eq
  rw [hwindow, BitVec.extractLsb'_toNat, BitVec.toNat_ushiftRight, toNat_append_eq_add, Nat.shiftRight_zero,
    Nat.shiftRight_eq_div_pow, BitVec.toNat_ofNat]

/-! ## The obligations -/

/-- An instruction that delivers the values `g` delivers every description of them. -/
theorem deliversV_of_deliverV_eq {x : Instr} {s : State} {i : Reg} {f g : Nat → Word}
    (hx : exec x s = s.deliverV i g) (hgf : ∀ e, g e = f e) : DeliversV x s i s.vlen f :=
  deliversV_of_exec s.vlen_bounds.2 hx fun e _ => hgf e

/-- Settles O51: each element delivered is the product or the quotient by 2^n. -/
theorem vectorShifts : Obligations.VectorShifts := by
  rintro s i j k n v rfl rfl
  exact ⟨deliversV_of_deliverV_eq rfl fun e => guarded_shiftLeft_eq_ofNat (s.vsrc i j e) _,
    deliversV_of_deliverV_eq rfl fun e => guarded_ushiftRight_eq_ofNat (s.vsrc i j e) _⟩

/-- Settles O52: each element delivered is a window on two neighbours, of which one past the end of the vector is
zero, as a word in the model and as a number in the statement. -/
theorem vectorDoubleShifts : Obligations.VectorDoubleShifts := by
  rintro s i j k n v rfl rfl
  refine ⟨deliversV_of_deliverV_eq rfl fun e => (doubleLeft_eq_ofNat _ _ _).trans ?left,
    deliversV_of_deliverV_eq rfl fun e => (doubleRight_eq_ofNat _ _ _).trans ?right⟩
  case left =>
    rw [apply_ite BitVec.toNat]
    rfl
  case right =>
    rw [apply_ite BitVec.toNat]
    rfl

end Sys2Proof.Machine

/-! # Proofs: the start of a computation period, and the writes of the host (60_exceptions.md R431, R440;
70_reset_and_hazards.md R461, R462)

A launch and a write of the host are one update of the state each: what it answers, what it leaves alone, and that it
keeps the invariant. -/

namespace Sys2Proof.Machine

/-! ## Launches -/

theorem State.fieldOk_iff {s : State} :
    s.fieldOk = true ↔ s.ba.toNat ≤ s.la.toNat ∧ s.la.toNat ≤ Config.cmWords := by
  simp [State.fieldOk, BitVec.le_def]

/-- The state a launch answers (R461, R462). -/
def State.launched (s : State) (l : Launch) : State :=
  { s with
    p := l.p0
    ba := l.ba0
    la := l.la0
    st := { s.st with
      exitMode := false
      idleMode := false
      exitCode := 0
      semPtr := l.semPtr
      semBit := l.semBit
      rangeErr := false
      floatErr := false }
    run := .running
    written := []
    ibuf := [] }

theorem State.launch_of_ok {s : State} {l : Launch} (hrun : s.run = .idle) (hl : l.ok = true) :
    s.launch l = .next (s.launched l) := by
  simp [State.launch, State.launched, hrun, hl]

theorem State.launch_of_not_ok {s : State} {l : Launch} (hrun : s.run = .idle) (hl : ¬ l.ok = true) :
    s.launch l = .refused .launchPremise := by
  simp [State.launch, hrun, hl]

theorem State.launch_of_running {s : State} (l : Launch) (hrun : s.run = .running) :
    s.launch l = .refused .notIdle :=
  if_pos hrun

theorem step_of_not_fieldOk {s : State} (hrun : s.run = .running) (hf : ¬ s.fieldOk = true) :
    step s = .refused .launchPremise := by
  simp [step, hrun, hf]

theorem frame_launched (s : State) (l : Launch) : Frame s (s.launched l) fun q =>
    q = .run ∨ q = .p ∨ q = .ba ∨ q = .la ∨ q = .exitMode ∨ q = .idleMode ∨ q = .exitCode ∨ q = .semPtr ∨
      q = .semBit ∨ q = .rangeErr ∨ q = .floatErr ∨ q = .ibuf ∨ q = .written := by
  intro q hq
  cases q with
  | run | p | ba | la | exitMode | idleMode | exitCode | semPtr | semBit | rangeErr | floatErr | ibuf | written =>
    exact absurd (by simp) hq
  | _ => exact rfl

/-- Settles O10: the premises are those of `Launch.ok`, and of `fieldOk` for the step. -/
theorem launchStarts : Obligations.LaunchStarts := by
  intro s l
  refine ⟨fun hrun hfield hsize hp => ?_, fun hrun hbad => ?_, fun hrun => State.launch_of_running l hrun,
    fun hrun hbad => ?_⟩
  · exact ⟨s.launched l, State.launch_of_ok hrun (Launch.ok_iff.2 ⟨hfield, hsize, hp⟩), rfl, rfl, rfl, rfl, rfl, rfl,
      rfl, frame_launched s l⟩
  · exact State.launch_of_not_ok hrun (mt Launch.ok_iff.1 hbad)
  · exact step_of_not_fieldOk hrun (mt State.fieldOk_iff.1 hbad)

/-! ## Writes to an idle processor -/

theorem frame_setElem (s : State) (r : Reg) (n : BitVec 6) (x : Word) :
    Frame s (s.setElem r n x) (· = .v r n.toNat) := by
  intro q hq
  cases q with
  | v r' e =>
    by_cases hr : r' = r
    · subst hr
      by_cases he : e < 64
      · exact (s.elem_setElem_same r' n x he).trans (if_neg fun h => hq (congrArg (Piece.v r') h))
      · have he : 64 ≤ e := Nat.le_of_not_lt he
        exact (State.elem_of_le _ r' he).trans (s.elem_of_le r' he).symm
    · exact s.elem_setElem_ne n x e hr
  | _ => exact rfl

theorem frame_setSem (s : State) (n : Fin 8) (x : Bool) :
    Frame s { s with sem := s.sem.set n.val x } (· = .sem n) := by
  intro q hq
  cases q with
  | sem m => exact Vector.getElem_set_ne n.isLt m.isLt fun h => hq (congrArg Piece.sem (Fin.ext h).symm)
  | _ => exact rfl

theorem frame_writeCommon (s : State) (a : Nat) (x : Word) :
    Frame s { s with cm := Memory.writeWord s.cm a x } fun q => ∃ b, InWord a b ∧ q = .commonByte b := by
  intro q hq
  cases q with
  | commonByte b => exact (Memory.byte?_writeWord s.cm a x b).trans (if_neg fun h => hq ⟨b, h, rfl⟩)
  | _ => exact rfl

/-- A write of the host changes the piece it names and nothing else (R440). For BA, LA and the fields of the status
register every piece but the one named is the same by the update's definition. -/
theorem frame_hostApply (s : State) (w : HostWrite) : Frame s (s.hostApply w) w.Touches := by
  cases w with
  | p x => exact frame_jumpTo s x
  | a r x => exact frame_setA s r x
  | s r x => exact frame_setS s r x
  | v r e x => exact frame_setElem s r e x
  | vl x => exact frame_setVL s x
  | vm x => exact frame_setVM s x
  | localWord addr x => exact frame_storeLocal s addr.toNat x
  | commonWord addr x => exact frame_writeCommon s addr.toNat x
  | sem n x => exact frame_setSem s n x
  | enRangeHalt x => exact frame_setEnRangeHalt s x
  | enFloatHalt x => exact frame_setEnFloatHalt s x
  | ba x | la x | semPtr x | semBit x | exitMode x | idleMode x | exitCode x | rangeErr x | floatErr x =>
    intro q hq
    cases q <;> try exact rfl
    exact absurd rfl hq

theorem stands_hostApply (s : State) (w : HostWrite) : w.Stands (s.hostApply w) := by
  cases w with
  | a r x => exact s.getA_setA_same r x
  | s r x => exact s.getS_setS_same r x
  | v r e x => exact (s.elem_setElem_same r e x e.isLt).trans (if_pos rfl)
  | localWord addr x => exact Memory.word?_writeWord_same s.lm addr.toNat x
  | commonWord addr x => exact Memory.word?_writeWord_same s.cm addr.toNat x
  | sem n x => exact Vector.getElem_set_self _
  | _ => exact rfl

/-! ## Writes to a running processor -/

/-- The field test of a host write: an address of 28 bits is its own absolute address. -/
theorem State.inField_ofNat_iff {s : State} (a : BitVec 28) :
    s.inField (BitVec.ofNat 32 a.toNat) = true ↔ s.ba.toNat ≤ a.toNat ∧ a.toNat < s.la.toNat := by
  have ha : (BitVec.ofNat 32 a.toNat).toNat = a.toNat :=
    (BitVec.toNat_ofNat _ _).trans (Nat.mod_eq_of_lt (Nat.lt_trans a.isLt (by decide)))
  rw [State.inField, Bool.and_eq_true, decide_eq_true_iff, decide_eq_true_iff, BitVec.le_def, BitVec.lt_def, ha]

theorem State.hostWrite_refused {s : State} (buffer : List Nat) {w : HostWrite} (hrun : s.run = .running)
    (hw : ¬ w.IsCommon) : s.hostWrite buffer w = .refused .notIdle := by
  cases w with
  | commonWord addr x => exact absurd trivial hw
  | _ => simp only [State.hostWrite, hrun]

theorem State.hostWrite_common {s : State} (buffer : List Nat) (a : BitVec 28) (x : Word) (hrun : s.run = .running) :
    s.hostWrite buffer (.commonWord a x) = s.hostStore buffer a.toNat x := by
  simp only [State.hostWrite, hrun]

theorem State.hostStore_of_allowed {s : State} {buffer : List Nat} {a : BitVec 28} (x : Word)
    (h : ¬ (s.ba.toNat ≤ a.toNat ∧ a.toNat < s.la.toNat) ∨ a.toNat ∈ buffer) :
    s.hostStore buffer a.toNat x = .next (s.storeCommon a.toNat x) := by
  refine if_neg fun hbad => ?_
  simp only [Bool.and_eq_true, State.inField_ofNat_iff, Bool.not_eq_true', List.contains_eq_mem,
    decide_eq_false_iff_not] at hbad
  exact h.elim (· hbad.1) hbad.2

theorem State.hostStore_of_field {s : State} {buffer : List Nat} {a : BitVec 28} (x : Word)
    (hba : s.ba.toNat ≤ a.toNat) (hla : a.toNat < s.la.toNat) (hbuffer : a.toNat ∉ buffer) :
    s.hostStore buffer a.toNat x = .refused .hostContract := by
  refine if_pos ?_
  simp only [Bool.and_eq_true, State.inField_ofNat_iff, Bool.not_eq_true', List.contains_eq_mem,
    decide_eq_false_iff_not]
  exact ⟨⟨hba, hla⟩, hbuffer⟩

/-- Settles O11: an idle processor's piece is set by `hostApply`; a running one's Common Memory word is stored as the
processor itself would store it. -/
theorem foregroundWrites : Obligations.ForegroundWrites := by
  intro s buffer w
  refine ⟨fun hidle => ?_, State.hostWrite_refused buffer, ?_⟩
  · exact ⟨s.hostApply w, State.hostWrite_idle buffer w hidle, frame_hostApply s w, stands_hostApply s w⟩
  · rintro a x rfl hrun
    rw [State.hostWrite_common buffer a x hrun]
    refine ⟨fun hallowed => ?_, fun hba hla hbuffer => State.hostStore_of_field x hba hla hbuffer⟩
    exact ⟨s.storeCommon a.toNat x, State.hostStore_of_allowed x hallowed, frame_storeCommon s a.toNat x,
      Memory.word?_writeWord_same s.cm a.toNat x, fun b => mem_insertAddress a.toNat b s.written⟩

/-! ## The invariant -/

/-- A launch finds the field legal and empties the buffer and the list of written words, so it asks for nothing but
sound memories. -/
theorem State.inv_launched {s : State} {l : Launch} (hlocal : s.LocalMemoryOk) (hcommon : s.CommonMemoryOk)
    (hl : l.ok = true) : (s.launched l).Inv where
  localMemory := hlocal
  commonMemory := hcommon
  idleFlag := ⟨nofun, nofun⟩
  buffer := ⟨Nat.zero_le _, List.nodup_nil⟩
  written := ⟨rfl, fun _ ha => absurd ha List.not_mem_nil⟩
  field := fun _ => by
    obtain ⟨hfield, hsize, -⟩ := Launch.ok_iff.1 hl
    exact State.fieldOk_iff.2 ⟨hfield, hsize⟩

/-- A word noted as written still holds a word after a write of the host, which notes nothing in idle mode. -/
theorem WrittenWords.writeWord {m : Memory} {l : List Nat} (a : Nat) (v : Word) (h : WrittenWords m l) :
    WrittenWords (Memory.writeWord m a v) l :=
  ⟨h.1, fun b hb => (h.store a v).2 b ((mem_insertAddress a b l).2 (.inr hb))⟩

theorem State.Inv.storeCommon {s : State} (h : s.Inv) {a : Nat} (v : Word) (ha : a < Config.cmWords) :
    (s.storeCommon a v).Inv :=
  ⟨h.localMemory, Memory.ok_writeWord v ha h.commonMemory, h.idleFlag, h.buffer, WrittenWords.store a v h.written,
    h.field⟩

/-- Of the pieces that the invariant names, a write of the host to an idle processor reaches the words of the two
memories, BA and LA, which matter to a running processor only, and the Idle Mode flag. -/
theorem State.Inv.hostApply {s : State} (h : s.Inv) (hidle : s.run = .idle) {w : HostWrite}
    (hw : w ≠ .idleMode false) : (s.hostApply w).Inv := by
  have hfield : (s.hostApply w).FieldOk := fun hrun => by
    rw [State.hostApply_run, hidle] at hrun
    cases hrun
  obtain ⟨hlocal, hcommon, hflag, hbuffer, hwritten, -⟩ := h
  cases w with
  | localWord addr x => exact ⟨Memory.ok_writeWord x addr.isLt hlocal, hcommon, hflag, hbuffer, hwritten, hfield⟩
  | commonWord addr x =>
    exact ⟨hlocal, Memory.ok_writeWord x addr.isLt hcommon, hflag, hbuffer,
      WrittenWords.writeWord addr.toNat x hwritten, hfield⟩
  | idleMode b =>
    obtain rfl : b = true := by
      cases b with
      | false => exact absurd rfl hw
      | true => rfl
    exact ⟨hlocal, hcommon, ⟨fun _ => hidle, fun _ => rfl⟩, hbuffer, hwritten, hfield⟩
  | _ => exact ⟨hlocal, hcommon, hflag, hbuffer, hwritten, hfield⟩

/-- Settles O14: a launch establishes what it needs itself, and a write of the host is an update of an idle processor or
a store to Common Memory. -/
theorem launchKeepsInvariant : Obligations.LaunchKeepsInvariant := by
  refine ⟨fun s t l hlocal hcommon h => ?_, fun s t buffer w hs hw h => ?_⟩
  · obtain ⟨-, hl, rfl⟩ := State.launch_eq_next h
    exact State.inv_launched hlocal hcommon hl
  · rcases State.hostWrite_eq_next h with ⟨hidle, rfl⟩ | ⟨-, a, x, -, rfl, -⟩
    · exact hs.hostApply hidle hw
    · exact hs.storeCommon x a.isLt

end Sys2Proof.Machine

/-! # Proofs: how a computation period and a run end (60_exceptions.md R421, R425, R432)

One lemma says how a step can leave a running processor: running, with Exit Mode as it was, or idle by an exit or by a
halt on an enabled error. The statements about runs follow it through the steps. -/

namespace Sys2Proof.Machine

/-! ## The step of a running processor -/

/-- An error has halted the processor: idle, the exit fields as they were, and an enabled error's bit set (R425). -/
def HaltedOnError (s t : State) : Prop :=
  t.run = .idle ∧ t.st.idleMode = true ∧ t.st.exitMode = s.st.exitMode ∧ t.st.exitCode = s.st.exitCode ∧
    ((s.st.enRangeHalt = true ∧ t.st.rangeErr = true) ∨ (s.st.enFloatHalt = true ∧ t.st.floatErr = true))

/-- The processor has exited with the code `jk` (R421). -/
def ExitedWith (t : State) (jk : Short) : Prop :=
  t.run = .idle ∧ t.st.idleMode = true ∧ t.st.exitMode = true ∧ t.st.exitCode = jk

theorem Works.keepsRun {s t : State} (h : Works s t) :
    t.run = s.run ∧ t.st.exitMode = s.st.exitMode ∧ t.st.exitCode = s.st.exitCode := by
  obtain ⟨-, -, hrun, -, -, -, -, -, hmode, hcode, -⟩ := h.keeps
  exact ⟨hrun, hmode, hcode⟩

/-- A halt keeps the exit fields and the error bit that caused it (R425). -/
theorem haltedOnError_halt {s v : State} (hmode : v.st.exitMode = s.st.exitMode)
    (hcode : v.st.exitCode = s.st.exitCode)
    (herr : (s.st.enRangeHalt = true ∧ v.st.rangeErr = true) ∨ (s.st.enFloatHalt = true ∧ v.st.floatErr = true)) :
    HaltedOnError s v.halt := by
  obtain ⟨hidle, hflag, hhmode, hhcode, -, hrange, hfloat⟩ := v.halt_status
  exact ⟨hidle, hflag, hhmode.trans hmode, hhcode.trans hcode,
    herr.imp (And.imp_right hrange) (And.imp_right hfloat)⟩

/-- The effect of an instruction that is no exit: only an error whose halt is enabled makes the processor idle. -/
theorem Effect.goes_on_or_halts {s t : State} (h : Effect s t) :
    (t.run = s.run ∧ t.st.exitMode = s.st.exitMode) ∨ HaltedOnError s t := by
  cases h with
  | work hw =>
    obtain ⟨hrun, hmode, -⟩ := hw.keepsRun
    exact .inl ⟨hrun, hmode⟩
  | @rangeError u hw hst ht =>
    obtain ⟨hrun, hmode, hcode⟩ := hw.keepsRun
    cases hen : u.st.enRangeHalt with
    | false =>
      obtain rfl := ht.trans (State.raise_rangeError_off hen)
      exact .inl ⟨hrun, hmode⟩
    | true =>
      obtain rfl := ht.trans (State.raise_rangeError_on hen)
      exact .inr (haltedOnError_halt hmode hcode (.inl ⟨hst ▸ hen, rfl⟩))
  | @floatError u hw hst ht =>
    obtain ⟨hrun, hmode, hcode⟩ := hw.keepsRun
    cases hen : u.st.enFloatHalt with
    | false =>
      obtain rfl := ht.trans (State.raise_floatError_off hen)
      exact .inl ⟨hrun, hmode⟩
    | true =>
      obtain rfl := ht.trans (State.raise_floatError_on hen)
      exact .inr (haltedOnError_halt hmode hcode (.inr ⟨hst ▸ hen, rfl⟩))

/-- How a step leaves a running processor. The clock and the buffer, which come before the instruction (entry 41), touch
neither the run state nor the status register. -/
theorem step_running_cases {s t : State} (hrun : s.run = .running) (h : step s = .next t) :
    (t.run = .running ∧ t.st.exitMode = s.st.exitMode) ∨ (∃ jk, s.AtExit jk ∧ ExitedWith t jk) ∨
      HaltedOnError s t := by
  rcases step_next h with ⟨hidle, -⟩ | ⟨-, -, l, i, rest, hfetch, hdecode, hexec⟩
  · cases hrun.symm.trans hidle
  · rcases exec_effect hexec with heffect | ⟨jk, hi, rfl⟩
    · rcases heffect.goes_on_or_halts with ⟨hgo, hmode⟩ | hhalt
      · exact .inl ⟨hgo.trans hrun, hmode⟩
      · exact .inr (.inr hhalt)
    · exact .inr (.inl ⟨jk, ⟨l, rest, i, hfetch, hdecode, hi⟩, rfl, rfl, rfl, rfl⟩)

/-- Settles O16: of the three ways a step leaves a running processor, the two that leave it idle. -/
theorem periodEnds : Obligations.PeriodEnds := by
  intro s t hrun h hidle
  rcases step_running_cases hrun h with ⟨hgo, -⟩ | ⟨jk, hexit, -, hflag, hmode, hcode⟩ |
    ⟨-, hflag, hmode, hcode, herr⟩
  · cases hgo.symm.trans hidle
  · obtain ⟨l, rest, i, hfetch, hdecode, hi⟩ := hexit
    exact ⟨hflag, .inl ⟨l, rest, jk, i, hfetch, hdecode, hi, hmode, hcode⟩⟩
  · exact ⟨hflag, .inr ⟨hmode, hcode, herr⟩⟩

/-! ## Runs -/

theorem runFor_fault {s : State} {f : Fault} (n : Nat) (hrun : s.run = .running) (h : step s = .fault f) :
    runFor (n + 1) s = .faulted f := by
  simp only [runFor, hrun, h]

theorem runFor_refused {s : State} {r : Refusal} (n : Nat) (hrun : s.run = .running) (h : step s = .refused r) :
    runFor (n + 1) s = .refused r := by
  simp only [runFor, hrun, h]

/-- What a run has ended in does not change with more steps. -/
theorem runFor_add_of_ended {n : Nat} {s : State} (h : (runFor n s).Ended) (m : Nat) :
    runFor (n + m) s = runFor n s := by
  cases hrun : s.run with
  | idle => rw [runFor_idle _ hrun, runFor_idle _ hrun]
  | running =>
    induction n generalizing s with
    | zero =>
      rw [runFor_zero hrun] at h
      exact h.elim
    | succ n ih =>
      rw [Nat.add_right_comm]
      cases hstep : step s with
      | fault f => rw [runFor_fault _ hrun hstep, runFor_fault _ hrun hstep]
      | refused r => rw [runFor_refused _ hrun hstep, runFor_refused _ hrun hstep]
      | next t =>
        rw [runFor_next _ hrun hstep] at h
        rw [runFor_next _ hrun hstep, runFor_next _ hrun hstep]
        cases ht : t.run with
        | idle => rw [runFor_idle _ ht, runFor_idle _ ht]
        | running => exact ih h ht

/-- Two ends of a run are the same: the longer of the two runs shows both. -/
theorem runFor_ended_unique {n m : Nat} {s : State} (hn : (runFor n s).Ended) (hm : (runFor m s).Ended) :
    runFor m s = runFor n s := by
  rw [← runFor_add_of_ended hn m, ← runFor_add_of_ended hm n, Nat.add_comm]

/-- What an end of the run from `s` after at most `n` steps tells: an exit was the last instruction executed, or an
error bit is set. -/
def EndTells (s : State) (n : Nat) : Prop :=
  (∀ t, runFor n s = .exited t → t.run = .idle ∧ t.st.exitMode = true ∧
    ∃ m u, m < n ∧ runFor m s = .unfinished u ∧ u.AtExit t.st.exitCode ∧ step u = .next t) ∧
  (∀ a b, runFor n s = .halted a b → a = true ∨ b = true)

theorem endTells_of_ne {s : State} {n : Nat} (hexit : ∀ t, runFor n s ≠ .exited t)
    (hhalt : ∀ a b, runFor n s ≠ .halted a b) : EndTells s n :=
  ⟨fun t h => absurd h (hexit t), fun a b h => absurd h (hhalt a b)⟩

/-- A first step that exits. -/
theorem endTells_of_exit {s t : State} {jk : Short} (n : Nat) (hrun : s.run = .running) (hstep : step s = .next t)
    (hat : s.AtExit jk) (ht : ExitedWith t jk) : EndTells s (n + 1) := by
  obtain ⟨hidle, -, hmode, rfl⟩ := ht
  have hend : runFor (n + 1) s = .exited t := by
    rw [runFor_next n hrun hstep, runFor_idle n hidle, State.idleEnd, if_pos hmode]
  refine ⟨fun t' h => ?_, fun a b h => ?_⟩
  · cases hend.symm.trans h
    exact ⟨hidle, hmode, 0, s, Nat.succ_pos n, runFor_zero hrun, hat, hstep⟩
  · cases hend.symm.trans h

/-- A first step that halts: Exit Mode still being clear tells it from an exit (R425). -/
theorem endTells_of_halt {s t : State} (n : Nat) (hrun : s.run = .running) (hstep : step s = .next t)
    (hclear : s.st.exitMode = false) (ht : HaltedOnError s t) : EndTells s (n + 1) := by
  obtain ⟨hidle, -, hmode, -, herr⟩ := ht
  have hend : runFor (n + 1) s = .halted t.st.rangeErr t.st.floatErr := by
    rw [runFor_next n hrun hstep, runFor_idle n hidle, State.idleEnd, hmode, hclear]
    rfl
  refine ⟨fun t' h => ?_, fun a b h => ?_⟩
  · cases hend.symm.trans h
  · cases hend.symm.trans h
    exact herr.imp And.right And.right

/-- A first step that goes on: the rest of the run tells its end. -/
theorem EndTells.of_next {s t : State} {n : Nat} (hrun : s.run = .running) (hstep : step s = .next t)
    (h : EndTells t n) : EndTells s (n + 1) := by
  obtain ⟨hexited, hhalted⟩ := h
  rw [EndTells, runFor_next n hrun hstep]
  refine ⟨fun v hv => ?_, hhalted⟩
  obtain ⟨hidle, hmode, m, u, hm, hu, hat, hlast⟩ := hexited v hv
  exact ⟨hidle, hmode, m + 1, u, Nat.succ_lt_succ hm, (runFor_next m hrun hstep).trans hu, hat, hlast⟩

/-- Of the flags that LP5 clears it is Exit Mode that matters: it stays clear as long as the processor runs. -/
theorem endTells_of_running {s : State} (n : Nat) (hrun : s.run = .running) (hclear : s.st.exitMode = false) :
    EndTells s n := by
  induction n generalizing s with
  | zero =>
    have hzero := runFor_zero hrun
    exact endTells_of_ne (by simp [hzero]) (by simp [hzero])
  | succ n ih =>
    cases hstep : step s with
    | fault f =>
      have hend := runFor_fault n hrun hstep
      exact endTells_of_ne (by simp [hend]) (by simp [hend])
    | refused r =>
      have hend := runFor_refused n hrun hstep
      exact endTells_of_ne (by simp [hend]) (by simp [hend])
    | next t =>
      rcases step_running_cases hrun hstep with ⟨hgo, hmode⟩ | ⟨jk, hat, hexit⟩ | hhalt
      · exact (ih hgo (hmode.trans hclear)).of_next hrun hstep
      · exact endTells_of_exit n hrun hstep hat hexit
      · exact endTells_of_halt n hrun hstep hclear hhalt

/-- Settles O17: ends are lasting, so there is at most one; what it tells is shown along the run. -/
theorem runsEnd : Obligations.RunsEnd := by
  intro s
  refine ⟨fun n m hn => runFor_add_of_ended hn m, ?_, fun ⟨hrun, hclear, _⟩ n => endTells_of_running n hrun hclear⟩
  by_cases hend : ∃ n, (runFor n s).Ended
  · obtain ⟨n, hn⟩ := hend
    exact .inr ⟨n, hn, fun m hm => runFor_ended_unique hn hm⟩
  · exact .inl (not_exists.1 hend)

end Sys2Proof.Machine

/-! # Proofs: vector integer and count instructions, and compressed iota (48_vector_float_integer.md R385 to R392, R401,
R402, R409) -/

namespace Sys2Proof.Machine

/-! ## Leading zeros (00_scope.md R12) -/

/-- The numbers from 0 on that pass the test end at the first that fails it. -/
theorem length_takeWhile_range {p : Nat → Bool} {n N : Nat} (hn : n < N) (hbelow : ∀ m, m < n → p m = true)
    (hat : p n = false) : ((List.range N).takeWhile p).length = n := by
  obtain ⟨d, rfl⟩ := Nat.exists_eq_add_of_lt hn
  rw [Nat.add_assoc, List.range_add, List.range_succ_eq_map, List.map_cons,
    List.takeWhile_append_of_pos fun m hm => hbelow m (List.mem_range.1 hm),
    List.takeWhile_cons_of_neg (by simpa using hat), List.append_nil, List.length_range]

theorem exists_highest_of_ne_zero {w : Word} (h : w ≠ 0) :
    ∃ n, n < 64 ∧ w.getLsbD (63 - n) = true ∧ ∀ m, m < n → w.getLsbD (63 - m) = false := by
  have hbit : ∃ n, w.getLsbD (63 - n) = true := by
    by_contra hnone
    refine h (BitVec.eq_of_getLsbD_eq fun m hm => ?_)
    have hm' := not_exists.1 hnone (63 - m)
    rw [Nat.sub_sub_self (by omega)] at hm'
    simpa using hm'
  refine ⟨Nat.find hbit, Nat.lt_of_not_le fun hle => ?_, Nat.find_spec hbit, fun m hm => by
    simpa using Nat.find_min hbit hm⟩
  have hlast : w.getLsbD (63 - 63) = true := by
    simpa [Nat.sub_eq_zero_of_le (Nat.le_of_succ_le hle)] using Nat.find_spec hbit
  exact Nat.find_min hbit hle hlast

theorem lzcount_eq_length_takeWhile (w : Word) :
    lzcount w = ((List.range 64).takeWhile fun n => !w.getLsbD (63 - n)).length := by
  by_cases hzero : w = 0
  · subst hzero
    rw [List.takeWhile_eq_self_iff.2 (by simp)]
    rfl
  · obtain ⟨n, hn, hbit, hzeros⟩ := exists_highest_of_ne_zero hzero
    rw [lzcount_of_highest hn hbit hzeros,
      length_takeWhile_range hn (fun m hm => by rw [hzeros m hm]; rfl) (by rw [hbit]; rfl)]

/-- Settles O53: the elements delivered are the model's sums, differences and counts of the sources (R37). -/
theorem vectorIntegers : Obligations.VectorIntegers := by
  intro s i j k a b ha hb
  obtain rfl : a = s.vsrc i j := ha
  obtain rfl : b = s.vsrc i k := hb
  simp only [← onesBelow_eq_length_filter, ← lzcount_eq_length_takeWhile]
  exact ⟨deliversV_of_resultV rfl, deliversV_of_resultV rfl, deliversV_of_resultV rfl, deliversV_of_resultV rfl,
    deliversV_of_resultV rfl, deliversV_of_resultV rfl, deliversV_of_resultV rfl⟩

/-! ## Compressed iota -/

theorem onePositions_eq_filter (m : Word) (n : Nat) : onePositions m n = (List.range n).filter (maskBit m) := by
  induction n with
  | zero => rfl
  | succ n ih =>
    rw [onePositions, ih, List.range_succ, List.filter_append]
    cases h : maskBit m n <;> simp [h]

theorem length_onePositions_le (m : Word) (n : Nat) : (onePositions m n).length ≤ n := by
  rw [onePositions_eq_filter]
  exact (List.length_filter_le _ _).trans_eq List.length_range

theorem onePositions_prefix (m : Word) {t n : Nat} (h : t ≤ n) : onePositions m t <+: onePositions m n := by
  induction n, h using Nat.le_induction with
  | base => exact List.prefix_rfl
  | succ n _ ih =>
    rw [onePositions]
    split
    · exact ih.trans (List.prefix_append _ _)
    · exact ih

/-- A selected position stands where the selected positions before it end. -/
theorem onePositions_at_rank {m : Word} {t n : Nat} (ht : t < n) (hbit : maskBit m t = true) :
    (onePositions m t).length < (onePositions m n).length ∧
      (onePositions m n).getD (onePositions m t).length 0 = t := by
  obtain ⟨rest, hrest⟩ := onePositions_prefix m (Nat.succ_le_of_lt ht)
  rw [onePositions, if_pos hbit] at hrest
  rw [← hrest]
  simp

theorem toNat_iotaWord_mod (free t d : Nat) : (iotaWord free t d).toNat % 2 ^ 32 = t * d % 2 ^ 32 := by
  rw [iotaWord, toNat_append_eq_add, Nat.mul_add_mod_self_right, BitVec.toNat_ofNat, Nat.mod_mod]

theorem toNat_iotaWord {free t d : Nat} (h : t * d < 2 ^ 31) : (iotaWord free t d).toNat = t * d := by
  rw [iotaWord, if_pos h, toNat_append_eq_add, BitVec.toNat_ofNat, Nat.mod_eq_of_lt (by omega)]
  simp

/-- All 64 mask bits are examined, whatever the vector length (R402, decision D17, entry 28). -/
theorem State.deliverIota_eq (s : State) (i : Reg) (m : Word) (d : Nat) :
    s.deliverIota i m d = .next ((s.setV i (onePositions m 64).length fun e =>
      iotaWord s.freeIndex ((onePositions m 64).getD e 0) d).advance 1) := rfl

/-- Settles O55: the element of a selected position's rank holds the iota word of that position; the vector length plays
no part, since all 64 mask bits are examined (D17). -/
theorem compressedIota : Obligations.CompressedIota := by
  rintro s i j k x ones d hx rfl hd
  have hexec : exec x s = s.deliverIota i (s.getS j) d := by
    rw [hd, ← BitVec.toNat_setWidth]
    rcases hx with rfl | rfl <;> rfl
  have hones : ∀ n, ((List.range n).filter fun t => (s.getS j).getLsbD (63 - t)).length =
      (onePositions (s.getS j) n).length := fun n => by rw [onePositions_eq_filter]; rfl
  simp only [hones]
  have hle := length_onePositions_le (s.getS j) 64
  refine ⟨_, hexec.trans (s.deliverIota_eq i _ d),
    ((frame_setV s i _ _).trans (frame_advance _ 1)).mono fun _ => Or.symm, fun n hn hbit => ?_, rfl⟩
  obtain ⟨hrank, hposition⟩ := onePositions_at_rank hn hbit
  have helem := s.elem_setV_lt i (fun e => iotaWord s.freeIndex ((onePositions (s.getS j) 64).getD e 0) d) hrank hle
  rw [hposition] at helem
  rw [State.elem_advance, helem]
  exact ⟨toNat_iotaWord_mod _ n d, toNat_iotaWord⟩

end Sys2Proof.Machine
